-- ==== Sys2Proof/Word.lean ====
section
/-! DEFINITION. The two word types of the machine (rules R9, R11): bytes and nibbles, all unsigned. -/

namespace Sys2Proof

/-- A byte: the width of the bus, of every register and of every memory cell (`WORD_BITS` = 8, rule R9). -/
abbrev Byte := BitVec 8

/-- A nibble: an opcode (`OPCODE_BITS` = 4) or an operand (`OPERAND_BITS` = 4, rule R9). -/
abbrev Nibble := BitVec 4

end Sys2Proof
end

