-- ==== Sys2Proof/Machine/Flags.lean ====
section
/-! DEFINITION. The arithmetic/flag unit (rules R130, R131): the result byte and the two flags of one call of
`get_result`. -/

namespace Sys2Proof.Machine

/-- What one call of `get_result` computes (rule R131). -/
structure AluResult where
  value : Byte
  zero  : Bool
  carry : Bool
deriving DecidableEq, Repr

/-- The right operand as it enters the adder: in SUBTRACT mode its two's-complement negation modulo 256 (rule R131,
step 1). -/
def aluOperand (sub : Bool) (rhs : Byte) : Byte := if sub then ~~~rhs + 1 else rhs

/-- `get_result` in the mode `sub` (rule R131, steps 1 to 4): the sum is exact, then narrowed. -/
def getResult (sub : Bool) (lhs rhs : Byte) : AluResult :=
  let sum := lhs.toNat + (aluOperand sub rhs).toNat
  let result := BitVec.ofNat 8 sum
  { value := result, zero := result == 0, carry := decide (sum ≥ 256) }

end Sys2Proof.Machine
end

