-- ==== Sys2Proof/Syntax.lean ====
section
/-! DEFINITION. The two languages of the machine: the instructions (one constructor per row of the opcode
table, rule R75) and the microcode the ROM is written in (rules R15, R128, R138). -/

namespace Sys2Proof

/-- An instruction: one constructor per opcode 0x0 to 0xF (rules R74, R75), each carrying the low nibble of its
byte (rule R71). In NOP, OUT, HLT and RSV7 to RSVD that nibble is ignored (rule R73); it is kept so that an
instruction determines its byte. -/
inductive Instr where
  | nop  (x : Nibble)   -- 0x0: no operation (R221)
  | lda  (n : Nibble)   -- 0x1: load A from cell n (R181)
  | add  (n : Nibble)   -- 0x2: add cell n to A (R202)
  | sub  (n : Nibble)   -- 0x3: subtract cell n from A (R203)
  | sta  (n : Nibble)   -- 0x4: store A to cell n (R182)
  | ldi  (n : Nibble)   -- 0x5: load A with the immediate n (R183)
  | jmp  (n : Nibble)   -- 0x6: jump to cell n (R222)
  | rsv7 (x : Nibble)   -- 0x7 to 0xD: reserved (R225)
  | rsv8 (x : Nibble)
  | rsv9 (x : Nibble)
  | rsvA (x : Nibble)
  | rsvB (x : Nibble)
  | rsvC (x : Nibble)
  | rsvD (x : Nibble)
  | out  (x : Nibble)   -- 0xE: hand the bus to the output latch (R223)
  | hlt  (x : Nibble)   -- 0xF: halt (R224)
deriving DecidableEq, Repr

/-- A micro-operation (rules R110 to R126; the last two are the extension's, R232 and R233). -/
inductive MicroOp where
  | pcToBus
  | irDataToBus
  | aToBus
  | memToBus
  | aluToBus
  | busToMar
  | busToIr
  | busToA
  | busToB
  | busToMem
  | busToPc
  | busToOut
  | pcAdvance
  | storeFlags
  | setSubtract
  | resetSubtract
  | halt
  | busToPcIfCarry
  | busToPcIfZero
deriving DecidableEq, Repr

/-- A control word, or step: micro-operations applied in the listed order (rule R138). -/
abbrev ControlWord := List MicroOp

/-- A ROM entry: an ordered list of control words (rule R141). -/
abbrev RomEntry := List ControlWord

/-- The role of a micro-operation on the bus (rule R128, column "bus role"). -/
inductive BusRole where
  | writer              -- drives the bus
  | readerDestructive   -- latches the bus and clears it
  | readerPeek          -- latches the bus and leaves it
  | offBus              -- "none"
deriving DecidableEq, Repr

/-- Rule R128, column "bus role"; rules R232 and R233 for the extension's two. -/
def MicroOp.busRole : MicroOp → BusRole
  | .pcToBus => .writer
  | .irDataToBus => .writer
  | .aToBus => .writer
  | .memToBus => .writer
  | .aluToBus => .writer
  | .busToMar => .readerDestructive
  | .busToIr => .readerDestructive
  | .busToA => .readerDestructive
  | .busToB => .readerPeek
  | .busToMem => .readerPeek
  | .busToPc => .readerPeek
  | .busToOut => .readerPeek
  | .pcAdvance => .offBus
  | .storeFlags => .offBus
  | .setSubtract => .offBus
  | .resetSubtract => .offBus
  | .halt => .offBus
  | .busToPcIfCarry => .readerPeek
  | .busToPcIfZero => .readerPeek

/-- The micro-operation drives the bus. -/
def MicroOp.isWriter (m : MicroOp) : Bool := m.busRole == .writer

/-- The micro-operation latches the bus, clearing it or not. -/
def MicroOp.isReader (m : MicroOp) : Bool := m.busRole == .readerDestructive || m.busRole == .readerPeek

end Sys2Proof
end

