-- ==== Sys2Proof/Decode.lean ====
section
/-! DEFINITION. Decoding (rules R70 to R74) and, after it, the encoder. Every byte is one instruction, so the
decoder of a byte is total; the decoder of a byte list refuses only the empty list, by name. -/

namespace Sys2Proof

/-- The opcode of an instruction byte, `(IR & 0xF0) >> 4` (rules R12, R71). -/
def opcodeBits (b : Byte) : Nibble := b.extractLsb' 4 4

/-- The operand of an instruction byte, bits 3..0 (rules R12, R71). -/
def operandBits (b : Byte) : Nibble := b.extractLsb' 0 4

/-- The instruction of a byte, selected by bits 7..4 alone (rules R74, R75). -/
def decode (b : Byte) : Instr :=
  match (opcodeBits b).toNat with
  | 0 => .nop (operandBits b)
  | 1 => .lda (operandBits b)
  | 2 => .add (operandBits b)
  | 3 => .sub (operandBits b)
  | 4 => .sta (operandBits b)
  | 5 => .ldi (operandBits b)
  | 6 => .jmp (operandBits b)
  | 7 => .rsv7 (operandBits b)
  | 8 => .rsv8 (operandBits b)
  | 9 => .rsv9 (operandBits b)
  | 10 => .rsvA (operandBits b)
  | 11 => .rsvB (operandBits b)
  | 12 => .rsvC (operandBits b)
  | 13 => .rsvD (operandBits b)
  | 14 => .out (operandBits b)
  | _ => .hlt (operandBits b)

/-- Why a byte list holds no instruction. There is no illegal byte (rule R76), so only the end of the list. -/
inductive DecodeError where
  | noByte
deriving DecidableEq, Repr

/-- The first instruction of a byte list and the bytes after it: every instruction is one byte (rule R70). -/
def decodeBytes : List Byte → Except DecodeError (Instr × List Byte)
  | [] => .error .noByte
  | b :: rest => .ok (decode b, rest)

/-- The instruction byte whose bits are the low `nbits` bits of `w`, the bits above them 0. -/
def tableByte (nbits w : Nat) : Byte := BitVec.ofNat 8 (w % 2 ^ nbits)

/-- The decoder on a word numbered as the opcode table numbers it: one byte, bit 0 its least significant bit
(rule R12). A word of more than 8 bits is no instruction (rule R70). -/
def decodeTableWord (nbits w : Nat) : Option Instr :=
  if nbits ≤ 8 then some (decode (tableByte nbits w)) else none

/-- The opcode of an instruction (rule R75). -/
def Instr.opcode : Instr → Nibble
  | .nop _ => 0x0
  | .lda _ => 0x1
  | .add _ => 0x2
  | .sub _ => 0x3
  | .sta _ => 0x4
  | .ldi _ => 0x5
  | .jmp _ => 0x6
  | .rsv7 _ => 0x7
  | .rsv8 _ => 0x8
  | .rsv9 _ => 0x9
  | .rsvA _ => 0xA
  | .rsvB _ => 0xB
  | .rsvC _ => 0xC
  | .rsvD _ => 0xD
  | .out _ => 0xE
  | .hlt _ => 0xF

/-- The operand nibble an instruction carries (rules R71, R73). -/
def Instr.operand : Instr → Nibble
  | .nop x => x
  | .lda n => n
  | .add n => n
  | .sub n => n
  | .sta n => n
  | .ldi n => n
  | .jmp n => n
  | .rsv7 x => x
  | .rsv8 x => x
  | .rsv9 x => x
  | .rsvA x => x
  | .rsvB x => x
  | .rsvC x => x
  | .rsvD x => x
  | .out x => x
  | .hlt x => x

/-- The byte `op:n`, that is `16*op + n` (rules R12, R71). -/
def instrByte (op n : Nibble) : Byte := op ++ n

/-- The byte of an instruction: opcode in the high nibble, operand in the low nibble (rule R71). -/
def encode (i : Instr) : Byte := instrByte i.opcode i.operand

end Sys2Proof
end

