-- ==== Sys2Proof/Machine/Operands.lean ====
section
/-! DEFINITION. The operand forms (rule R180): immediate and absolute, both from the 4-bit operand. -/

namespace Sys2Proof.Machine

/-- `zext_8`, the operand as a byte in 0..15 (rules R13, R72). -/
def zext8 (n : Nibble) : Byte := n.setWidth 8

/-- The memory cell an address-bearing byte selects: its low 4 bits (rule R51). -/
def cellOf (v : Byte) : Nat := (operandBits v).toNat

/-- The value `PC.set` stores, `v[3:0]` as a byte (rule R106). -/
def pcOf (v : Byte) : Byte := zext8 (operandBits v)

end Sys2Proof.Machine
end

