-- ==== Sys2Proof/Config.lean ====
section
/-! DEFINITION. What is fixed for one machine: the memory's size, what an unlisted cell reads as, and the
named parameters of rule R10 with the two choices of them the model speaks of. -/

namespace Sys2Proof.Config

/-- `MEMORY_SIZE`, the number of memory cells and the modulus of the program counter (rule R9). -/
def memorySize : Nat := 16

/-- What a memory cell that no entry lists reads as.
DESIGN CHOICE (log entry 3; unsafe): the spec gives memory no contents before the host's load. -/
def unlistedByte : Byte := 0

/-- `RESERVED_POLICY` (rule R10, decision D5): what the opcodes of the reserved set do. -/
inductive ReservedPolicy where
  | nop      -- the normative default: a reserved opcode executes no step
  | refuse   -- the stricter variant: DECODE refuses a reserved opcode
deriving DecidableEq, Repr

/-- `RESET_DRAW` (rule R10, decision D11): the values the fields without a reset value come up with. -/
structure ResetDraw where
  b        : Byte
  mar      : Byte
  ir       : Byte
  bus      : Byte
  aluZero  : Bool
  aluCarry : Bool
deriving DecidableEq, Repr

/-- The named parameters of rule R10. -/
structure Params where
  reservedPolicy : ReservedPolicy
  extCondJump    : Bool
  aResetValue    : Option Byte
  resetDraw      : ResetDraw
deriving DecidableEq, Repr

/-- The draw `State.reset` uses: zero everywhere.
DESIGN CHOICE (log entry 2; unsafe): the spec leaves each of these any value. -/
def zeroDraw : ResetDraw :=
  { b := 0, mar := 0, ir := 0, bus := 0, aluZero := false, aluCarry := false }

/-- The parameters of the machine that `exec`, `step` and `State.reset` describe: the hardware as documented,
with A holding 0x00 after reset.
DESIGN CHOICE (log entry 1; unsafe): the spec's default for `A_RESET_VALUE` is `none`. -/
def machine : Params :=
  { reservedPolicy := .nop, extCondJump := false, aResetValue := some 0, resetDraw := zeroDraw }

/-- The defaults of rule R10 letter for letter, for a given draw: `A_RESET_VALUE = none`, so that reading an
unwritten A faults. -/
def documented (draw : ResetDraw) : Params :=
  { reservedPolicy := .nop, extCondJump := false, aResetValue := none, resetDraw := draw }

end Sys2Proof.Config
end

