-- ==== Sys2Proof/Machine/State.lean ====
section
/-! DEFINITION. The state record (rule R20), the model-only stops (rule R256), one setter per field, and the
state after reset (rule R37). -/

namespace Sys2Proof.Machine

/-- Memory: the listed cells, as (address, byte) pairs in rising order of address. A cell that is not listed reads
as `Config.unlistedByte`, and no entry lists that byte (`Memory.wf` in Machine/Ops.lean). -/
abbrev Memory := List Host.Cell

/-- The model-only faults (rule R256): the hardware raises none (rule R250). -/
inductive Fault where
  /-- Raised by `AToBus` and `AluToBus` while A is unwritten and `A_RESET_VALUE = none`, where the spec has its model
  stop (rules R118, R120, the table of R256, decision D10, 93_implementation_defined.md section 2). Never under the
  parameters of `step`, where A holds a reset value. Safe: the source gives A no reset value. -/
  | readUnwrittenA
  /-- Raised by `BusToPcIfCarry` and `BusToPcIfZero`, the extension's micro-operations, while FS is unwritten, where
  the spec has its model stop (rules R232, R233, the table of R256, decisions D6 and D12,
  93_implementation_defined.md section 2). Never under the parameters of `step`, whose ROM has neither. Safe: the
  source gives FS no initial value. -/
  | readUnwrittenFlags
  /-- Raised by the check of a control word with two bus writers (decision D24). No word of the ROM has two, so
  it cannot fire. Exact. -/
  | busConflict
  /-- Raised by a tick in EXECUTE(s, o) where the ROM entry of IR has no micro-operation (s, o). No rule gives
  such a tick, and no reachable state is there (log entry 8). Safe: the model stops. -/
  | noMicroOp
deriving DecidableEq, Repr

/-- The model-only refusals (rule R256). -/
inductive Refusal where
  /-- Raised by `exec` for an instruction without a meaning. No arm of this model does. Safe. -/
  | notModelled (mnemonic : String)
  /-- Raised by DECODE under `RESERVED_POLICY = Refuse` for an opcode of the reserved set (rule R163). Never under
  the parameters of `step`. Safe: the hardware executes NOP. -/
  | reservedOpcode (op : Nibble)
  /-- Raised by the host's memory load after the first tick (rule R281). Safe: the source leaves it unspecified. -/
  | loadWhileRunning
deriving DecidableEq, Repr

/-- The sequencer state (rule R160): EXECUTE carries a step index and an op index. -/
inductive USeq where
  | fetch1
  | fetch2
  | decode
  | execute (step op : Nat)
  | halted
deriving DecidableEq, Repr

/-- A pair (zero, carry), as handed to the flag store (rules R28, R35). -/
structure FlagPair where
  zero  : Bool
  carry : Bool
deriving DecidableEq, Repr

/-- The stop that ended the run, if any (rules R20, R173, R256). -/
inductive RunOutcome where
  | none
  | fault (reason : Fault)
  | refused (reason : Refusal)
deriving DecidableEq, Repr

/-- The state of the block (rule R20). `aWritten`, `outTrace`, `fsTrace`, `started` and `outcome` are model only. -/
structure State where
  mem      : Memory            -- MEM, 16 cells (R50)
  a        : Byte              -- register A (R21)
  aWritten : Bool              -- A has been written since reset (R37, R256)
  b        : Byte              -- register B (R22)
  mar      : Byte              -- memory address register (R30)
  ir       : Byte              -- instruction register (R30)
  pc       : Byte              -- program counter, a value in 0..15 (R24)
  bus      : Byte              -- the shared bus value (R32, R100)
  aluZero  : Bool              -- ALU.zero (R27)
  aluCarry : Bool              -- ALU.carry (R27)
  aluSub   : Bool              -- ALU.sub, true in SUBTRACT mode (R30, R130)
  fs       : Option FlagPair   -- FS, none while unwritten (R28, R37)
  halted   : Bool              -- the halted flag (R30)
  useq     : USeq              -- the sequencer state (R160)
  outTrace : List Byte         -- OUT_TRACE (R35)
  fsTrace  : List FlagPair     -- FS_TRACE (R35)
  started  : Bool              -- a tick has run (R20, R281)
  outcome  : RunOutcome        -- the recorded fault or refusal (R173, R256)
deriving DecidableEq, Repr

namespace State

def setMem (s : State) (m : Memory) : State := { s with mem := m }

/-- A write to A also makes it a written register (rule R256). -/
def setA (s : State) (v : Byte) : State := { s with a := v, aWritten := true }

def setB (s : State) (v : Byte) : State := { s with b := v }

def setMar (s : State) (v : Byte) : State := { s with mar := v }

def setIr (s : State) (v : Byte) : State := { s with ir := v }

def setPc (s : State) (v : Byte) : State := { s with pc := v }

def setBus (s : State) (v : Byte) : State := { s with bus := v }

def setAluFlags (s : State) (zero carry : Bool) : State := { s with aluZero := zero, aluCarry := carry }

def setAluSub (s : State) (mode : Bool) : State := { s with aluSub := mode }

/-- What one call of the flag store records: the pair persisted, and the event (rules R28, R35). -/
def pushFlags (s : State) (f : FlagPair) : State := { s with fs := some f, fsTrace := s.fsTrace ++ [f] }

/-- What one call of the output latch records (rule R35). -/
def pushOut (s : State) (v : Byte) : State := { s with outTrace := s.outTrace ++ [v] }

def setHalted (s : State) (h : Bool) : State := { s with halted := h }

def setUseq (s : State) (u : USeq) : State := { s with useq := u }

def setStarted (s : State) (b : Bool) : State := { s with started := b }

def setOutcome (s : State) (o : RunOutcome) : State := { s with outcome := o }

/-- The state after reset under the parameters `p` (rules R37, R280), before the host loads memory. While A is
unwritten (`A_RESET_VALUE = none`) the byte held in `a` is never read. -/
def resetWith (p : Config.Params) : State :=
  { mem := [], a := p.aResetValue.getD 0, aWritten := false, b := p.resetDraw.b, mar := p.resetDraw.mar,
    ir := p.resetDraw.ir, pc := 0, bus := p.resetDraw.bus, aluZero := p.resetDraw.aluZero,
    aluCarry := p.resetDraw.aluCarry, aluSub := false, fs := none, halted := false, useq := .fetch1,
    outTrace := [], fsTrace := [], started := false, outcome := .none }

/-- The machine right after reset (rule R37): the values the spec gives, and for A, B, MAR, IR, BUS and the ALU
flags, to which it gives none, zero (log entries 1 and 2). -/
def reset : State := resetWith Config.machine

end State

end Sys2Proof.Machine
end

