-- ==== Sys2Proof/Machine/Ops.lean ====
section
/-! DEFINITION. The named operations over memory, the bus and the registers. The machine takes no exception and
returns from none (rules R250, R253, R254), so no operation for either exists. -/

namespace Sys2Proof.Machine

/-! Memory (rules R50 to R60). -/

namespace Memory

/-- The byte of cell `a`: the listed one, or what an unlisted cell reads as. -/
def read : Memory → Nat → Byte
  | [], _ => Config.unlistedByte
  | (k, v) :: rest, a => if k = a then v else read rest a

/-- The entry for cell `a` before `rest`, left out where the byte is what an unlisted cell reads as. -/
def entry (a : Nat) (v : Byte) (rest : Memory) : Memory :=
  if v = Config.unlistedByte then rest else (a, v) :: rest

/-- Cell `a` replaced by `v`, in canonical form. -/
def write : Memory → Nat → Byte → Memory
  | [], a, v => entry a v []
  | (k, w) :: rest, a, v =>
    if a < k then entry a v ((k, w) :: rest)
    else if a = k then entry a v rest
    else (k, w) :: write rest a v

/-- The canonical form from address `lo` on: addresses strictly rising and below `MEMORY_SIZE`, no entry equal to
what an unlisted cell reads as. -/
def wfFrom : Nat → Memory → Bool
  | _, [] => true
  | lo, (k, v) :: rest =>
    decide (lo ≤ k) && decide (k < Config.memorySize) && !decide (v = Config.unlistedByte) && wfFrom (k + 1) rest

/-- The canonical form of memory (log entry 3). -/
def wf (m : Memory) : Bool := wfFrom 0 m

/-- The memory whose cells `a`, `a + 1`, … hold the bytes of the list, over `m`. -/
def writeAll : Memory → Nat → List Byte → Memory
  | m, _, [] => m
  | m, a, v :: rest => writeAll (write m a v) (a + 1) rest

end Memory

/-- `MemRead(MAR, 1)` (rules R14, R51). -/
def memRead (s : State) : Byte := Memory.read s.mem (cellOf s.mar)

/-- `MemWrite(MAR, 1, v)` (rules R14, R51). -/
def memWrite (v : Byte) (s : State) : State := s.setMem (Memory.write s.mem (cellOf s.mar) v)

/-! The bus (rules R101 to R103). -/

/-- `write(v)`: the bus takes the value, whatever it held (rule R101). -/
def busWrite (v : Byte) (s : State) : State := s.setBus v

/-- `read()`: the bus value, without mutation (rule R102). -/
def busRead (s : State) : Byte := s.bus

/-- `read_with_reset()`: the bus value, and the state with the bus at 0 (rule R103). -/
def busReadReset (s : State) : Byte × State := (s.bus, s.setBus 0)

/-! The program counter (rule R106). -/

/-- `PC.advance()`: `(PC + 1) mod 16`. -/
def pcAdvance (s : State) : State := s.setPc (BitVec.ofNat 8 ((s.pc.toNat + 1) % Config.memorySize))

/-- `PC.set(v)`: `PC <- v[3:0]`. -/
def pcSet (v : Byte) (s : State) : State := s.setPc (pcOf v)

/-! The state changes of the micro-operations (rules R110 to R126), one operation each. The operand of
`operandToBus` is an argument, so that an instruction's meaning and `IrDataToBus` share it. -/

/-- `PcToBus` (rule R110). -/
def pcToBus (s : State) : State := busWrite s.pc s

/-- The operand on the bus: `BUS <- zext_8(n)`; `IrDataToBus` with `n = IR[3:0]` (rule R115). -/
def operandToBus (n : Nibble) (s : State) : State := busWrite (zext8 n) s

/-- `AToBus` on a readable A (rule R118). -/
def aToBus (s : State) : State := busWrite s.a s

/-- `MemToBus` (rule R112). -/
def memToBus (s : State) : State := busWrite (memRead s) s

/-- `AluToBus` on a readable A: A is the left operand, B the right (rules R120, R131). -/
def aluToBus (s : State) : State :=
  let r := getResult s.aluSub s.a s.b
  busWrite r.value (s.setAluFlags r.zero r.carry)

/-- `BusToMar`, a destructive read (rule R111). -/
def busToMar (s : State) : State :=
  let r := busReadReset s
  r.2.setMar r.1

/-- `BusToIr`, a destructive read (rule R113). -/
def busToIr (s : State) : State :=
  let r := busReadReset s
  r.2.setIr r.1

/-- `BusToA`, a destructive read (rule R116). -/
def busToA (s : State) : State :=
  let r := busReadReset s
  r.2.setA r.1

/-- `BusToB`, a peek (rule R117). -/
def busToB (s : State) : State := s.setB (busRead s)

/-- `BusToMem`, a peek (rule R119). -/
def busToMem (s : State) : State := memWrite (busRead s) s

/-- `BusToPc`, a peek (rule R124). -/
def busToPc (s : State) : State := pcSet (busRead s) s

/-- `BusToOut`, a peek: the output latch is handed the current bus value (rule R125). -/
def busToOut (s : State) : State := s.pushOut (busRead s)

/-- `StoreFlags`: the flag store is handed the ALU's two flags (rule R121). -/
def storeFlags (s : State) : State := s.pushFlags { zero := s.aluZero, carry := s.aluCarry }

/-- `SetSubtract` (rule R122). -/
def setSubtract (s : State) : State := s.setAluSub true

/-- `ResetSubtract` (rule R123). -/
def resetSubtract (s : State) : State := s.setAluSub false

/-- `Halt` (rule R126). -/
def halt (s : State) : State := s.setHalted true

/-! The end of an instruction. -/

/-- After the last micro-operation of an entry: HALTED where the halted flag is set, else FETCH1 (rule R165). -/
def retire (s : State) : State := s.setUseq (if s.halted then .halted else .fetch1)

/-- An empty entry: DECODE goes straight back to FETCH1 (rules R144, R163). -/
def retireEmpty (s : State) : State := s.setUseq .fetch1

/-! Outcomes in sequence. -/

/-- The second transition from the state the first answers; a fault or a refusal ends the sequence. -/
def andThen (o : Host.Outcome State Fault Refusal) (f : State → Host.Outcome State Fault Refusal) :
    Host.Outcome State Fault Refusal :=
  match o with
  | .next s => f s
  | .fault r => .fault r
  | .refused r => .refused r

end Sys2Proof.Machine
end

