-- ==== Sys2Proof/Machine/MemoryTransfer.lean ====
section
/-! DEFINITION. The memory-transfer instructions LDA, STA and LDI (rules R180 to R183). A meaning starts from the
state the fetch leaves (head of 43_memory_transfer.md) and ends at the next instruction boundary. -/

namespace Sys2Proof.Machine

/-- Step 1 of LDA, ADD, SUB and STA: the operand is the cell number, and goes to MAR (rules R180, R141). -/
def addressOperand (n : Nibble) (s : State) : State := busToMar (operandToBus n s)

/-- LDA n (rule R181). -/
def execLda (n : Nibble) (s : State) : Host.Outcome State Fault Refusal :=
  .next (retire (busToA (memToBus (addressOperand n s))))

/-- STA n (rule R182). -/
def execSta (n : Nibble) (s : State) : Host.Outcome State Fault Refusal :=
  .next (retire (busToMem (aToBus (addressOperand n s))))

/-- LDI n (rule R183). -/
def execLdi (n : Nibble) (s : State) : Host.Outcome State Fault Refusal :=
  .next (retire (busToA (operandToBus n s)))

end Sys2Proof.Machine
end

