-- ==== Sys2Proof/Machine/Arithmetic.lean ====
section
/-! DEFINITION. The arithmetic instructions ADD and SUB (rules R200 to R205). -/

namespace Sys2Proof.Machine

/-- Steps 1 and 2 of ADD and SUB: the byte of cell n goes to B (rules R202, R203). -/
def loadB (n : Nibble) (s : State) : State := busToB (memToBus (addressOperand n s))

/-- The ALU's result goes to A and its flags to the flag store (rule R202, step 3). -/
def aluToA (s : State) : State := storeFlags (busToA (aluToBus s))

/-- ADD n (rule R202). -/
def execAdd (n : Nibble) (s : State) : Host.Outcome State Fault Refusal :=
  .next (retire (aluToA (loadB n s)))

/-- SUB n: as ADD, in SUBTRACT mode during step 3 alone (rules R203, R205). -/
def execSub (n : Nibble) (s : State) : Host.Outcome State Fault Refusal :=
  .next (retire (resetSubtract (aluToA (setSubtract (loadB n s)))))

end Sys2Proof.Machine
end

