-- ==== Sys2Proof/Machine/Control.lean ====
section
/-! DEFINITION. The control and system instructions: NOP, JMP, OUT, HLT and the reserved opcodes (rules R221 to
R225). The operand bits of all but JMP are ignored (rule R73). -/

namespace Sys2Proof.Machine

/-- An instruction whose entry has no steps: only the fetch's effects (rules R144, R221, R225). -/
def noOperation (s : State) : Host.Outcome State Fault Refusal := .next (retireEmpty s)

/-- NOP (rule R221). -/
def execNop (_x : Nibble) (s : State) : Host.Outcome State Fault Refusal := noOperation s

/-- JMP n (rule R222). -/
def execJmp (n : Nibble) (s : State) : Host.Outcome State Fault Refusal :=
  .next (retire (busToPc (operandToBus n s)))

/-- OUT: the output latch is handed the bus value, which the fetch left at 0 (rule R223, conflict C10). -/
def execOut (_x : Nibble) (s : State) : Host.Outcome State Fault Refusal := .next (retire (busToOut s))

/-- HLT (rule R224). -/
def execHlt (_x : Nibble) (s : State) : Host.Outcome State Fault Refusal := .next (retire (halt s))

/-- RSV7, opcode 0x7 (rule R225). -/
def execRsv7 (_x : Nibble) (s : State) : Host.Outcome State Fault Refusal := noOperation s

/-- RSV8, opcode 0x8 (rule R225). -/
def execRsv8 (_x : Nibble) (s : State) : Host.Outcome State Fault Refusal := noOperation s

/-- RSV9, opcode 0x9 (rule R225). -/
def execRsv9 (_x : Nibble) (s : State) : Host.Outcome State Fault Refusal := noOperation s

/-- RSVA, opcode 0xA (rule R225). -/
def execRsvA (_x : Nibble) (s : State) : Host.Outcome State Fault Refusal := noOperation s

/-- RSVB, opcode 0xB (rule R225). -/
def execRsvB (_x : Nibble) (s : State) : Host.Outcome State Fault Refusal := noOperation s

/-- RSVC, opcode 0xC (rule R225). -/
def execRsvC (_x : Nibble) (s : State) : Host.Outcome State Fault Refusal := noOperation s

/-- RSVD, opcode 0xD (rule R225). -/
def execRsvD (_x : Nibble) (s : State) : Host.Outcome State Fault Refusal := noOperation s

end Sys2Proof.Machine
end

