-- ==== Sys2Proof/Machine/Dispatch.lean ====
section
/-! DEFINITION. One arm per instruction. -/

namespace Sys2Proof.Machine

/-- DECODE and EXECUTE of one instruction, from the state its fetch left to the next instruction boundary. -/
def exec (i : Instr) (s : State) : Host.Outcome State Fault Refusal :=
  match i with
  | .nop x => Sys2Proof.Machine.execNop x s
  | .lda n => Sys2Proof.Machine.execLda n s
  | .add n => Sys2Proof.Machine.execAdd n s
  | .sub n => Sys2Proof.Machine.execSub n s
  | .sta n => Sys2Proof.Machine.execSta n s
  | .ldi n => Sys2Proof.Machine.execLdi n s
  | .jmp n => Sys2Proof.Machine.execJmp n s
  | .rsv7 x => Sys2Proof.Machine.execRsv7 x s
  | .rsv8 x => Sys2Proof.Machine.execRsv8 x s
  | .rsv9 x => Sys2Proof.Machine.execRsv9 x s
  | .rsvA x => Sys2Proof.Machine.execRsvA x s
  | .rsvB x => Sys2Proof.Machine.execRsvB x s
  | .rsvC x => Sys2Proof.Machine.execRsvC x s
  | .rsvD x => Sys2Proof.Machine.execRsvD x s
  | .out x => Sys2Proof.Machine.execOut x s
  | .hlt x => Sys2Proof.Machine.execHlt x s

end Sys2Proof.Machine
end

