-- ==== Sys2Proof/WellFormed.lean ====
section
/-! DEFINITION. The checks on syntax. An instruction needs none for the hardware: there is no illegal encoding
(rule R76), and the type of the operand carries its bound. What the spec does check is a control word of the
microcode (rules R139, R145, R146), and what it asks of an assembler (rule R77). -/

namespace Sys2Proof

/-- At most one micro-operation of the word drives the bus (rule R139). -/
def ControlWord.singleWriter (cw : ControlWord) : Bool :=
  decide ((cw.filter MicroOp.isWriter).length ≤ 1)

/-- If the word has a writer, every bus reader but `BusToOut` comes after it (rule R139). -/
def ControlWord.readersAfterWriter (cw : ControlWord) : Bool :=
  !cw.any MicroOp.isWriter ||
    (cw.takeWhile fun m => !m.isWriter).all fun m => !m.isReader || m == .busToOut

/-- A well-formed control word (rule R139). -/
def ControlWord.wellFormed (cw : ControlWord) : Bool :=
  ControlWord.singleWriter cw && ControlWord.readersAfterWriter cw

/-- The subtract mode after the first `o` micro-operations of the word, from ADD mode (rules R122, R123). -/
def ControlWord.subtractAfter (cw : ControlWord) (o : Nat) : Bool :=
  (cw.take o).foldl
    (fun mode m => if m = .setSubtract then true else if m = .resetSubtract then false else mode) false

/-- The word meets the subtract obligation (rule R146): it ends in ADD mode, and where it sets subtract mode it
runs the ALU between setting and clearing it. -/
def ControlWord.subtractRestored (cw : ControlWord) : Bool :=
  !ControlWord.subtractAfter cw cw.length &&
    (!cw.contains .setSubtract ||
      (((cw.dropWhile (· != .setSubtract)).takeWhile (· != .resetSubtract)).contains .aluToBus &&
        (cw.dropWhile (· != .setSubtract)).contains .resetSubtract))

/-- The form an assembler should give an instruction: the ignored operand bits are 0 (rules R77, R79). The
hardware accepts every value of those bits. -/
def Instr.assemblerForm : Instr → Bool
  | .nop x => x == 0
  | .lda _ => true
  | .add _ => true
  | .sub _ => true
  | .sta _ => true
  | .ldi _ => true
  | .jmp _ => true
  | .rsv7 x => x == 0
  | .rsv8 x => x == 0
  | .rsv9 x => x == 0
  | .rsvA x => x == 0
  | .rsvB x => x == 0
  | .rsvC x => x == 0
  | .rsvD x => x == 0
  | .out x => x == 0
  | .hlt x => x == 0

end Sys2Proof
end

