-- ==== Sys2Proof/Machine/MicroOps.lean ====
section
/-! DEFINITION. The register-file controller: what each micro-operation does, its model-only fault arm included
(rules R110 to R128, R232, R233), and the application of a control word (rule R138). -/

namespace Sys2Proof.Machine

/-- A is unwritten: nothing has written it and `A_RESET_VALUE = none` (rules R37, R256). -/
def aUnwritten (p : Config.Params) (s : State) : Bool := p.aResetValue.isNone && !s.aWritten

/-- The transition `f`, behind the fault on an unwritten A. The spec raises it by name (rules R118, R120, R256, decision
D10), under `A_RESET_VALUE = none` alone: with a reset value for A, as in `step`, every read of A completes. -/
def readingA (p : Config.Params) (f : State → State) (s : State) : Host.Outcome State Fault Refusal :=
  if aUnwritten p s then .fault .readUnwrittenA else .next (f s)

/-- The jump of the extension's micro-operations: taken where the persisted flag is true, a fault while FS is
unwritten, which the spec raises by name (rules R232, R233, R256, decisions D6 and D12). No instruction of `step` has
these micro-operations. -/
def jumpIf (flag : FlagPair → Bool) (s : State) : Host.Outcome State Fault Refusal :=
  match s.fs with
  | none => .fault .readUnwrittenFlags
  | some f => .next (if flag f then busToPc s else s)

/-- One micro-operation. -/
def applyMicroOp (p : Config.Params) (m : MicroOp) (s : State) : Host.Outcome State Fault Refusal :=
  match m with
  | .pcToBus => .next (pcToBus s)
  | .irDataToBus => .next (operandToBus (operandBits s.ir) s)
  | .aToBus => readingA p aToBus s
  | .memToBus => .next (memToBus s)
  | .aluToBus => readingA p aluToBus s
  | .busToMar => .next (busToMar s)
  | .busToIr => .next (busToIr s)
  | .busToA => .next (busToA s)
  | .busToB => .next (busToB s)
  | .busToMem => .next (busToMem s)
  | .busToPc => .next (busToPc s)
  | .busToOut => .next (busToOut s)
  | .pcAdvance => .next (pcAdvance s)
  | .storeFlags => .next (storeFlags s)
  | .setSubtract => .next (setSubtract s)
  | .resetSubtract => .next (resetSubtract s)
  | .halt => .next (halt s)
  | .busToPcIfCarry => jumpIf FlagPair.carry s
  | .busToPcIfZero => jumpIf FlagPair.zero s

/-- The micro-operations of a list in the listed order, each from the state the one before left (rule R138). -/
def applyOps (p : Config.Params) : List MicroOp → State → Host.Outcome State Fault Refusal
  | [], s => .next s
  | m :: rest, s => andThen (applyMicroOp p m s) (applyOps p rest)

/-- A transition under the control word `cw`, behind the check for a second bus writer (decision D24). -/
def checkedWord (cw : ControlWord) (o : Host.Outcome State Fault Refusal) : Host.Outcome State Fault Refusal :=
  if ControlWord.singleWriter cw then o else .fault .busConflict

/-- `apply(cw)` (rule R138). -/
def applyWord (p : Config.Params) (cw : ControlWord) (s : State) : Host.Outcome State Fault Refusal :=
  checkedWord cw (applyOps p cw s)

end Sys2Proof.Machine
end

