-- ==== Sys2Proof/Machine/Rom.lean ====
section
/-! DEFINITION. The microcode ROM (rules R140 to R148), a constant of the machine. -/

namespace Sys2Proof.Machine

/-- `FETCH1_CW` (rule R140). -/
def fetch1Word : ControlWord := [.pcToBus, .busToMar]

/-- `FETCH2_CW` (rule R140). -/
def fetch2Word : ControlWord := [.memToBus, .busToIr, .pcAdvance]

/-- The ROM entry of an opcode (rules R141, R142), with the two entries the extension replaces (rule R148). -/
def rom (p : Config.Params) (op : Nibble) : RomEntry :=
  match op.toNat with
  | 0x1 => [[.irDataToBus, .busToMar], [.memToBus, .busToA]]
  | 0x2 => [[.irDataToBus, .busToMar], [.memToBus, .busToB], [.aluToBus, .busToA, .storeFlags]]
  | 0x3 => [[.irDataToBus, .busToMar], [.memToBus, .busToB],
      [.setSubtract, .aluToBus, .busToA, .storeFlags, .resetSubtract]]
  | 0x4 => [[.irDataToBus, .busToMar], [.aToBus, .busToMem]]
  | 0x5 => [[.irDataToBus, .busToA]]
  | 0x6 => [[.irDataToBus, .busToPc]]
  | 0x7 => if p.extCondJump then [[.irDataToBus, .busToPcIfCarry]] else []
  | 0x8 => if p.extCondJump then [[.irDataToBus, .busToPcIfZero]] else []
  | 0xE => [[.busToOut]]
  | 0xF => [[.halt]]
  | _ => []

/-- `RESERVED_SET`: 0x7 to 0xD, or 0x9 to 0xD with the extension (rule R160). -/
def reservedOpcode (p : Config.Params) (op : Nibble) : Bool :=
  decide ((if p.extCondJump then 0x9 else 0x7) ≤ op.toNat) && decide (op.toNat ≤ 0xD)

/-- The number of micro-operations of an entry (rules R167, R293). -/
def microOpCount (e : RomEntry) : Nat := (e.map List.length).sum

/-- The ticks of one instruction: FETCH1, FETCH2 and DECODE, and one for each micro-operation of the entry
(rule R167). -/
def instrTicks (p : Config.Params) (op : Nibble) : Nat := 3 + microOpCount (rom p op)

end Sys2Proof.Machine
end

