-- ==== Sys2Proof/Machine/Sequencer.lean ====
section
/-! DEFINITION. The sequencer (rules R160 to R173): the tick, the instruction step and the run built from ticks, the
recording of a stop, and the host's memory load (rule R281). All of it is written for every choice of the
parameters of rule R10. -/

namespace Sys2Proof.Machine

/-- The sequencer state after micro-operation (k, o) of the entry `e`, whose word k is `cw` (rules R160, R165). -/
def nextUseq (e : RomEntry) (cw : ControlWord) (k o : Nat) (halted : Bool) : USeq :=
  if o + 1 < cw.length then .execute k (o + 1)
  else if k + 1 < e.length then .execute (k + 1) 0
  else if halted then .halted
  else .fetch1

/-- The tick of FETCH1 (rule R161). -/
def tickFetch1 (p : Config.Params) (s : State) : Host.Outcome State Fault Refusal :=
  andThen (applyWord p fetch1Word s) fun t => .next (t.setUseq .fetch2)

/-- The tick of FETCH2 (rule R162). -/
def tickFetch2 (p : Config.Params) (s : State) : Host.Outcome State Fault Refusal :=
  andThen (applyWord p fetch2Word s) fun t => .next (t.setUseq .decode)

/-- The tick of DECODE (rule R163). -/
def tickDecode (p : Config.Params) (s : State) : Host.Outcome State Fault Refusal :=
  let op := opcodeBits s.ir
  if p.reservedPolicy = .refuse ∧ reservedOpcode p op then .refused (.reservedOpcode op)
  else .next (s.setUseq (if (rom p op).isEmpty then .fetch1 else .execute 0 0))

/-- The tick of EXECUTE(k, o): one micro-operation (rule R164). -/
def tickExecute (p : Config.Params) (k o : Nat) (s : State) : Host.Outcome State Fault Refusal :=
  let e := rom p (opcodeBits s.ir)
  match e[k]? with
  | none => .fault .noMicroOp
  | some cw =>
    match cw[o]? with
    | none => .fault .noMicroOp
    | some m =>
      andThen (checkedWord cw (applyMicroOp p m s)) fun t => .next (t.setUseq (nextUseq e cw k o t.halted))

/-- The tick of a state without a recorded stop (rule R160). A halted engine is left as it is (rule R166, decision
D15). -/
def tickRunning (p : Config.Params) (s : State) : Host.Outcome State Fault Refusal :=
  match s.useq with
  | .fetch1 => tickFetch1 p (s.setStarted true)
  | .fetch2 => tickFetch2 p (s.setStarted true)
  | .decode => tickDecode p (s.setStarted true)
  | .execute k o => tickExecute p k o (s.setStarted true)
  | .halted => .next s

/-- The transition `f` of a state without a recorded stop; a recorded stop is answered again, for good
(rule R173). -/
def unlessStopped (f : State → Host.Outcome State Fault Refusal) (s : State) :
    Host.Outcome State Fault Refusal :=
  match s.outcome with
  | .none => f s
  | .fault r => .fault r
  | .refused r => .refused r

/-- One transition of the sequencer (rule R160). -/
def tick (p : Config.Params) (s : State) : Host.Outcome State Fault Refusal := unlessStopped (tickRunning p) s

/-- `k` ticks in a row, up to the first fault or refusal. -/
def ticks (p : Config.Params) : Nat → State → Host.Outcome State Fault Refusal
  | 0, s => .next s
  | k + 1, s => andThen (tick p s) (ticks p k)

/-- An instruction boundary: the sequencer is at FETCH1 or HALTED (rule R167). -/
def atBoundary (s : State) : Bool := s.useq == .fetch1 || s.useq == .halted

/-- Ticks, at least one and at most `fuel`, until the next instruction boundary. -/
def ticksToBoundary (p : Config.Params) : Nat → State → Host.Outcome State Fault Refusal
  | 0, s => .next s
  | fuel + 1, s => andThen (tick p s) fun t => if atBoundary t then .next t else ticksToBoundary p fuel t

/-- The most ticks an instruction takes: SUB's 12 (rule R167). -/
def maxTicks : Nat := 12

/-- `stepInstr` (rule R167): ticks until `useq` is FETCH1 again, or HALTED, or a tick stops. From the middle of an
instruction it finishes that instruction (log entry 9). -/
def stepInstr (p : Config.Params) (s : State) : Host.Outcome State Fault Refusal := ticksToBoundary p maxTicks s

/-- The state `s` with a stop noted in it. A stop that is recorded already is kept: it is never cleared (rules R173,
R256). -/
def noteStop (o : RunOutcome) (s : State) : State := if s.outcome = .none then s.setOutcome o else s

/-- The state a transition from `s` leaves, its stop recorded (rules R173, R256): a stop leaves every other field of
`s` as it is. -/
def recorded (s : State) (o : Host.Outcome State Fault Refusal) : State :=
  match o with
  | .next t => t
  | .fault r => noteStop (.fault r) s
  | .refused r => noteStop (.refused r) s

/-- The state a tick leaves, its stop recorded (rule R173). -/
def tickRecorded (p : Config.Params) (s : State) : State := recorded (s.setStarted true) (tick p s)

/-- What a run under fuel ends in (rules R36, R168, R169, R173). -/
inductive RunEnd where
  | final (s : State)        -- HALTED: the one final state
  | stopped (s : State)      -- a fault or refusal, recorded in the state
  | unfinished (s : State)   -- the fuel ran out: no final state
deriving DecidableEq, Repr

/-- `run` (rule R168) under a fuel of ticks (rule R169, decision D27). -/
def run (p : Config.Params) : Nat → State → RunEnd
  | fuel, s =>
    if s.outcome ≠ .none then .stopped s
    else if s.useq = .halted then .final s
    else
      match fuel with
      | 0 => .unfinished s
      | k + 1 => run p k (tickRecorded p s)

/-- The host's memory load: 16 bytes replace memory wholesale, before the first tick only (rule R281). -/
def load (image : Vector Byte 16) (s : State) : Host.Outcome State Fault Refusal :=
  if s.started then .refused .loadWhileRunning
  else .next (s.setMem (Memory.writeAll [] 0 image.toList))

/-- The state a memory load leaves, its refusal recorded (rule R256, decision D14). -/
def loadRecorded (image : Vector Byte 16) (s : State) : State := recorded s (load image s)

/-- The fetch (rules R161, R162): what the ticks of FETCH1 and FETCH2 leave, ready for DECODE. -/
def fetchFirst (s : State) : State := busToMar (pcToBus s)

/-- The second transfer of the fetch and the PC's advance (rule R162). -/
def fetchSecond (s : State) : State := (pcAdvance (busToIr (memToBus s))).setUseq .decode

end Sys2Proof.Machine
end

