-- ==== Sys2Proof/Machine/Engine.lean ====
section
/-! DEFINITION. One whole instruction as fetch, decode and exec (`stepInstr` of rule R167); Machine/Step.lean calls it. -/

namespace Sys2Proof.Machine

/-- DECODE and EXECUTE of the byte in IR. -/
def execFetched (s : State) : Host.Outcome State Fault Refusal := exec (decode s.ir) s

/-- One instruction of a state without a recorded stop. In FETCH1 it is fetched, decoded and executed; from the
middle of an instruction that instruction is finished; a halted engine is left as it is (rules R166, R167). -/
def stepRunning (s : State) : Host.Outcome State Fault Refusal :=
  match s.useq with
  | .fetch1 => execFetched (fetchSecond (fetchFirst (s.setStarted true)))
  | .fetch2 => execFetched (fetchSecond (s.setStarted true))
  | .decode => execFetched (s.setStarted true)
  | .execute _ _ => stepInstr Config.machine s
  | .halted => .next s

end Sys2Proof.Machine
end

