-- ==== Sys2Proof/Machine/Step.lean ====
section
/-! DEFINITION. One step of the machine: one whole instruction (`stepInstr` of rule R167), the fetch, decode and
exec of Machine/Engine.lean. -/

namespace Sys2Proof.Machine

/-- One step: one instruction, or the recorded stop again (rules R167, R173). -/
def step (s : State) : Host.Outcome State Fault Refusal := unlessStopped stepRunning s

/-- The state `s` with an instruction byte in the cell PC selects, and the engine running and about to fetch it. -/
def State.withFetchWord (s : State) (nbits w : Nat) : State :=
  { s with
    mem := Memory.write s.mem (cellOf s.pc) (tableByte nbits w)
    useq := .fetch1
    halted := false
    outcome := .none }

end Sys2Proof.Machine
end

