-- ==== Sys2Proof/Machine/Extension.lean ====
section
/-! DEFINITION. The optional extension's conditional jumps JC and JZ (rules R230 to R233), off in the hardware as
documented (rule R8). They are no rows of the opcode table and no constructors of Instr: with
`EXT_COND_JUMP = true` the sequencer of Machine/Sequencer.lean runs them from the ROM (rule R148). -/

namespace Sys2Proof.Machine

/-- The end of an instruction whose last micro-operation may fault. -/
def retireAfter (o : Host.Outcome State Fault Refusal) : Host.Outcome State Fault Refusal :=
  andThen o fun t => .next (retire t)

/-- JC n (rule R230). -/
def execJc (n : Nibble) (s : State) : Host.Outcome State Fault Refusal :=
  retireAfter (jumpIf FlagPair.carry (operandToBus n s))

/-- JZ n (rule R231). -/
def execJz (n : Nibble) (s : State) : Host.Outcome State Fault Refusal :=
  retireAfter (jumpIf FlagPair.zero (operandToBus n s))

end Sys2Proof.Machine
end

