-- ==== Sys2Proof/Safety.lean ====
section
/-! DEFINITION. What counts as a safe run, in the terms the claims use: the invariant of rule R33, and the relation
of two states that differ in reset draws alone (rule R172). -/

namespace Sys2Proof.Safety

open Sys2Proof.Machine

/-- `k` steps in a row, up to the first fault or refusal: the host's run of this machine. -/
def steps : Nat → State → Host.Outcome State Fault Refusal
  | 0, s => .next s
  | k + 1, s => andThen (step s) (steps k)

/-- Where the sequencer stands, the ALU mode and the bus are what the microcode makes them: ADD mode outside
EXECUTE (rule R33 (c)); in EXECUTE(k, o) there is a micro-operation to apply, the mode is what the word has made it
so far, and a bus value about to go to MAR is a cell number. -/
def PhaseOk (p : Config.Params) (s : State) : Prop :=
  match s.useq with
  | .execute k o =>
    ∃ cw m, (rom p (opcodeBits s.ir))[k]? = some cw ∧ cw[o]? = some m ∧
      s.aluSub = ControlWord.subtractAfter cw o ∧ (m = .busToMar → s.bus.toNat < Config.memorySize)
  | _ => s.aluSub = false

/-- The invariant of the engine between ticks (rule R33), with what the record itself promises: canonical memory,
and a flag store that holds the last pair of its trace (rule R20). -/
structure Inv (p : Config.Params) (s : State) : Prop where
  memWf : Memory.wf s.mem = true
  pcInRange : s.pc.toNat < Config.memorySize
  marInRange : s.started = true → s.mar.toNat < Config.memorySize
  startsAtFetch : s.started = false → s.useq = .fetch1
  haltedIff : s.halted = true ↔ s.useq = .halted
  phase : PhaseOk p s
  fsIsLast : s.fs = s.fsTrace.getLast?

/-- The two states agree but for B, MAR, IR, BUS, ALU.zero and ALU.carry, the fields of `RESET_DRAW` (rule R10). -/
def SameButDraws (s t : State) : Prop :=
  t = { s with b := t.b, mar := t.mar, ir := t.ir, bus := t.bus, aluZero := t.aluZero, aluCarry := t.aluCarry }

/-- Two outcomes of the same kind, whose states agree but for the reset draws. -/
def SameOutcome : Host.Outcome State Fault Refusal → Host.Outcome State Fault Refusal → Prop
  | .next s, .next t => SameButDraws s t
  | .fault r, .fault r' => r = r'
  | .refused r, .refused r' => r = r'
  | _, _ => False

end Sys2Proof.Safety
end

