-- ==== Sys2Proof/Certificates/Slice0/Obligations.lean ====
section
/-! DEFINITION. The statements for the provers, in the order of OBLIGATIONS.json. -/

open Sys2Proof Sys2Proof.Machine Sys2Proof.Safety

/-! Encoding. -/

/-- The words of the spec's decode table (95_test_vectors.md 2.5), rule R81's two among them, decode to the
instructions they stand for. -/
def Obligations.DecodeReadsSpecWords : Prop :=
  decode 0x54 = .ldi 4 ∧ decode 0xF0 = .hlt 0 ∧ decode 0x00 = .nop 0 ∧ decode 0x0F = .nop 15 ∧
  decode 0x1E = .lda 14 ∧ decode 0x2F = .add 15 ∧ decode 0x3A = .sub 10 ∧ decode 0x4D = .sta 13 ∧
  decode 0x6F = .jmp 15 ∧ decode 0x70 = .rsv7 0 ∧ decode 0x8C = .rsv8 12 ∧ decode 0x9F = .rsv9 15 ∧
  decode 0xD1 = .rsvD 1 ∧ decode 0xE0 = .out 0 ∧ decode 0xE5 = .out 5 ∧ decode 0xFF = .hlt 15

/-- Rule R71: the opcode is bits 7..4, the operand bits 3..0, and the byte of an instruction is `16*op + n`. -/
def Obligations.EncodingIsOpcodeThenOperand : Prop :=
  (∀ b : Byte, (opcodeBits b).toNat = (b &&& 0xF0#8).toNat / 16 ∧ (operandBits b).toNat = (b &&& 0x0F#8).toNat) ∧
  (∀ op n : Nibble, (instrByte op n).toNat = 16 * op.toNat + n.toNat) ∧
  (∀ i : Instr, encode i = instrByte i.opcode i.operand)

/-- Decode and encode are inverse to each other, over every instruction and every byte: no bit of an encoding is
dropped, and no byte has two instructions or none. -/
def Obligations.DecodeEncodeInverse : Prop :=
  (∀ i : Instr, decode (encode i) = i) ∧ (∀ b : Byte, encode (decode b) = b)

/-- Rule R74: bits 7..4 alone select the entry, by the mask 0xF0 and the match `op << 4`. -/
def Obligations.HighNibbleSelectsInstruction : Prop :=
  (∀ n : Nibble,
    decode (instrByte 0x0 n) = .nop n ∧ decode (instrByte 0x1 n) = .lda n ∧ decode (instrByte 0x2 n) = .add n ∧
    decode (instrByte 0x3 n) = .sub n ∧ decode (instrByte 0x4 n) = .sta n ∧ decode (instrByte 0x5 n) = .ldi n ∧
    decode (instrByte 0x6 n) = .jmp n ∧ decode (instrByte 0x7 n) = .rsv7 n ∧ decode (instrByte 0x8 n) = .rsv8 n ∧
    decode (instrByte 0x9 n) = .rsv9 n ∧ decode (instrByte 0xA n) = .rsvA n ∧ decode (instrByte 0xB n) = .rsvB n ∧
    decode (instrByte 0xC n) = .rsvC n ∧ decode (instrByte 0xD n) = .rsvD n ∧ decode (instrByte 0xE n) = .out n ∧
    decode (instrByte 0xF n) = .hlt n) ∧
  (∀ (b : Byte) (op : Nibble), (decode b).opcode = op ↔ b &&& 0xF0#8 = instrByte op 0)

/-! The bus, the registers and the ALU. -/

/-- Rules R101 to R103: the write overwrites, the peek leaves the bus, the destructive read clears it, two destructive
reads yield (value, 0). That `BusToMar`, `BusToIr` and `BusToA` are the micro-operations that read destructively is the
spec's own choice (decision D7, log entry 6). -/
def Obligations.BusProtocol : Prop :=
  ∀ (s : State) (v : Byte),
    busWrite v s = { s with bus := v } ∧ busRead s = s.bus ∧ busReadReset s = (s.bus, { s with bus := 0 }) ∧
    ((busReadReset s).1, (busReadReset (busReadReset s).2).1) = (s.bus, 0) ∧
    busToMar s = { s with mar := s.bus, bus := 0 } ∧ busToIr s = { s with ir := s.bus, bus := 0 } ∧
    busToA s = { s with a := s.bus, aWritten := true, bus := 0 } ∧
    ∀ m : MicroOp, m.busRole = .readerDestructive ↔ m = .busToMar ∨ m = .busToIr ∨ m = .busToA

/-- Rule R106, and rule R26's wrap: `advance` is `(PC + 1) mod 16`, 15 goes to 0, and `set` stores the low 4 bits
(the spec's own choice, decision D18); neither changes anything else. -/
def Obligations.ProgramCounterAdvanceAndSet : Prop :=
  ∀ (s : State) (v : Byte),
    (∃ t, pcAdvance s = { s with pc := t } ∧ t.toNat = (s.pc.toNat + 1) % 16) ∧
    (s.pc = 15 → (pcAdvance s).pc = 0) ∧
    (∃ t, pcSet v s = { s with pc := t } ∧ t.toNat = v.toNat % 16)

/-- Rules R131 and R136: in SUBTRACT mode the right operand is negated modulo 256, the sum is exact, carry says that it reaches
256, zero that the result byte is 0; `AluToBus` puts the result on the bus and writes both flags on every call, and
nothing else. -/
def Obligations.GetResultAddsAndSetsFlags : Prop :=
  (∀ (sub : Bool) (lhs rhs : Byte),
    let r := if sub then (255 - rhs.toNat + 1) % 256 else rhs.toNat
    (getResult sub lhs rhs).value.toNat = (lhs.toNat + r) % 256 ∧
    ((getResult sub lhs rhs).carry = true ↔ lhs.toNat + r ≥ 256) ∧
    ((getResult sub lhs rhs).zero = true ↔ (getResult sub lhs rhs).value = 0)) ∧
  (∀ (p : Config.Params) (s : State), aUnwritten p s = false →
    let r := getResult s.aluSub s.a s.b
    applyMicroOp p .aluToBus s = .next { s with bus := r.value, aluZero := r.zero, aluCarry := r.carry })

/-- Rules R134 and R135: the closed forms of ADD mode and of SUBTRACT mode. In SUBTRACT mode carry is "no borrow" but
for `rhs = 0`, where it is false. The carry of a subtraction of 0 is the spec's resolution of conflict C5 (log entry
17). -/
def Obligations.AluClosedForms : Prop :=
  ∀ lhs rhs : Byte,
    ((getResult false lhs rhs).value = lhs + rhs ∧
      ((getResult false lhs rhs).carry = true ↔ lhs.toNat + rhs.toNat ≥ 256) ∧
      ((getResult false lhs rhs).zero = true ↔ (lhs.toNat + rhs.toNat) % 256 = 0)) ∧
    ((getResult true lhs rhs).value = lhs - rhs ∧
      ((getResult true lhs rhs).carry = true ↔ rhs ≠ 0 ∧ lhs.toNat ≥ rhs.toNat) ∧
      ((getResult true lhs rhs).zero = true ↔ lhs = rhs))

/-! Micro-operations. -/

/-- Rule R128, column "bus role": a writer drives the bus with a value that does not depend on what was there, and
changes at most the ALU flags beside it; a destructive reader leaves the bus at 0; every other micro-operation
leaves it as it was. Which readers clear the bus and which peek is the spec's own choice (decision D7, log entry 6). -/
def Obligations.MicroOpKeepsItsBusRole : Prop :=
  ∀ (p : Config.Params) (m : MicroOp) (s t : State), applyMicroOp p m s = .next t →
    match m.busRole with
    | .writer =>
      (∀ v, applyMicroOp p m { s with bus := v } = .next t) ∧
      t = { s with bus := t.bus, aluZero := t.aluZero, aluCarry := t.aluCarry }
    | .readerDestructive => t.bus = 0
    | .readerPeek => t.bus = s.bus
    | .offBus => t.bus = s.bus

/-- Each field of the state has the writers the spec names for it, and no others (rules R21, R22, R24, R27, R28, R30,
R53, R128). -/
def Obligations.EachFieldHasItsOwnWriters : Prop :=
  ∀ (p : Config.Params) (m : MicroOp) (s t : State), applyMicroOp p m s = .next t →
    (m ≠ .busToA → t.a = s.a ∧ t.aWritten = s.aWritten) ∧ (m ≠ .busToB → t.b = s.b) ∧
    (m ≠ .busToMar → t.mar = s.mar) ∧ (m ≠ .busToIr → t.ir = s.ir) ∧
    (m ≠ .pcAdvance → m ≠ .busToPc → m ≠ .busToPcIfCarry → m ≠ .busToPcIfZero → t.pc = s.pc) ∧
    (m ≠ .busToMem → t.mem = s.mem) ∧
    (m ≠ .aluToBus → t.aluZero = s.aluZero ∧ t.aluCarry = s.aluCarry) ∧
    (m ≠ .setSubtract → m ≠ .resetSubtract → t.aluSub = s.aluSub) ∧
    (m ≠ .storeFlags → t.fs = s.fs ∧ t.fsTrace = s.fsTrace) ∧
    (m ≠ .busToOut → t.outTrace = s.outTrace) ∧ (m ≠ .halt → t.halted = s.halted) ∧
    t.useq = s.useq ∧ t.started = s.started ∧ t.outcome = s.outcome

/-- A micro-operation succeeds, but for the model-only faults of rule R256: reading an unwritten A, and, in the
extension, an unwritten flag store. It never refuses. The faults are the spec's own choice (decisions D10, D6 and
D12, log entries 1, 5 and 11). -/
def Obligations.MicroOpsSucceedButForModelFaults : Prop :=
  ∀ (p : Config.Params) (m : MicroOp) (s : State),
    if (m = .aToBus ∨ m = .aluToBus) ∧ p.aResetValue = none ∧ s.aWritten = false then
      applyMicroOp p m s = .fault .readUnwrittenA
    else if (m = .busToPcIfCarry ∨ m = .busToPcIfZero) ∧ s.fs = none then
      applyMicroOp p m s = .fault .readUnwrittenFlags
    else ∃ t, applyMicroOp p m s = .next t

/-! Memory. -/

/-- Rule R51: the load and the store, the only accesses (rule R53), use `MAR[3:0]`, whatever MAR's other bits; the
store changes that cell and no other; and in every state of the invariant whose engine has started, MAR's other
bits are 0. The canonical form, `Memory.wf`, is the model's own choice (log entry 3). That the store leaves the
bus, `BusToMem` being a peek, is the spec's own choice (decision D7, log entry 6). -/
def Obligations.MemoryAccessUsesLowFourBitsOfMar : Prop :=
  (∀ (p : Config.Params) (s : State), Memory.wf s.mem = true →
    applyMicroOp p .memToBus s = .next { s with bus := Memory.read s.mem (s.mar.toNat % 16) } ∧
    ∃ m, applyMicroOp p .busToMem s = .next { s with mem := m } ∧ Memory.wf m = true ∧
      Memory.read m (s.mar.toNat % 16) = s.bus ∧
      ∀ a, a ≠ s.mar.toNat % 16 → Memory.read m a = Memory.read s.mem a) ∧
  (∀ (p : Config.Params) (s : State), Inv p s → s.started = true → s.mar.toNat % 16 = s.mar.toNat)

/-- Equal memories are equal data: two memories in canonical form that agree on the 16 cells are the same list. The
canonical form is the model's own (log entry 3). -/
def Obligations.MemoryIsDeterminedByItsCells : Prop :=
  ∀ m m' : Memory, Memory.wf m = true → Memory.wf m' = true →
    (∀ a, a < 16 → Memory.read m a = Memory.read m' a) → m = m'

/-! The microcode ROM. -/

/-- Rules R139 and R145 with rule R129: every control word of the ROM and of the fetch has at most one bus writer, and
every reader in it but `BusToOut` comes after a writer. -/
def Obligations.RomWordsAreWellFormed : Prop :=
  ∀ (p : Config.Params) (op : Nibble) (cw : ControlWord),
    cw ∈ rom p op ∨ cw = fetch1Word ∨ cw = fetch2Word →
    ControlWord.wellFormed cw = true ∧
    ∀ m, m ∈ cw.takeWhile (fun m => !m.isWriter) → m.isReader = true → m = .busToOut

/-- Rule R146: only SUB sets subtract mode, the word that sets it clears it again after running the ALU, and so every
control word of the ROM that starts in ADD mode ends in ADD mode. Where SUB's third word sets and clears the mode is
the spec's own choice (decision D8, log entry 7). -/
def Obligations.RomRestoresAddMode : Prop :=
  ∀ (p : Config.Params) (op : Nibble) (cw : ControlWord), cw ∈ rom p op →
    (MicroOp.setSubtract ∈ cw → op = 3) ∧
    (MicroOp.setSubtract ∈ cw → ∃ l₁ l₂ l₃ l₄, cw = l₁ ++ .setSubtract :: (l₂ ++ .aluToBus :: (l₃ ++ .resetSubtract :: l₄))) ∧
    ∀ s t : State, s.aluSub = false → applyWord p cw s = .next t → t.aluSub = false

/-- Decision D24: no tick meets a control word with two bus writers. The check is the spec's own choice (log entry 23). -/
def Obligations.BusConflictNeverFires : Prop :=
  ∀ (p : Config.Params) (s : State), s.outcome = .none → tick p s ≠ .fault .busConflict

/-! The sequencer. -/

/-- Rules R161, R162 and R171: the two control words of the fetch; after the tick of FETCH1, MAR = PC and BUS = 0; after the
tick of FETCH2, IR is the byte MAR selects, PC has advanced modulo 16, and BUS = 0; after both, IR is the byte of the cell
PC selected. Nothing else changes. -/
def Obligations.FetchTakesTheByteAtPc : Prop :=
  fetch1Word = [.pcToBus, .busToMar] ∧ fetch2Word = [.memToBus, .busToIr, .pcAdvance] ∧
  (∀ (p : Config.Params) (s : State), s.outcome = .none → s.useq = .fetch2 →
    tick p s = .next { s with
      ir := Memory.read s.mem (s.mar.toNat % 16), pc := BitVec.ofNat 8 ((s.pc.toNat + 1) % 16), bus := 0,
      useq := .decode, started := true }) ∧
  ∀ (p : Config.Params) (s : State), s.outcome = .none → s.useq = .fetch1 →
    tick p s = .next { s with mar := s.pc, bus := 0, useq := .fetch2, started := true } ∧
    ticks p 2 s = .next { s with
      mar := s.pc, ir := Memory.read s.mem (s.pc.toNat % 16), pc := BitVec.ofNat 8 ((s.pc.toNat + 1) % 16), bus := 0,
      useq := .decode, started := true }

/-- Rule R163: DECODE looks the entry of `IR[7:4]` up, goes back to FETCH1 where it is empty and to EXECUTE(0, 0) where
it is not, and changes nothing else; under `RESERVED_POLICY = Refuse` a reserved opcode is refused. The policy and
the extension are the spec's own variants (decisions D5 and D6, log entries 4 and 5). -/
def Obligations.DecodeTickOnlyMovesTheSequencer : Prop :=
  ∀ (p : Config.Params) (s : State), s.outcome = .none → s.useq = .decode →
    let op := opcodeBits s.ir
    let lowestReserved := if p.extCondJump then 9 else 7
    if p.reservedPolicy = .refuse ∧ lowestReserved ≤ op.toNat ∧ op.toNat ≤ 13 then
      tick p s = .refused (.reservedOpcode op)
    else
      tick p s = .next { s with
        started := true
        useq := if op = 0 ∨ (lowestReserved ≤ op.toNat ∧ op.toNat ≤ 13) then .fetch1 else .execute 0 0 }

/-- Rules R138 and R164: one tick for each micro-operation of a control word, in the listed order, does what applying
the word does. The grain of a tick and the place of the halted test are the spec's own choice (decisions D1 and D25,
log entries 14 and 19). -/
def Obligations.WordAppliesOneMicroOpPerTick : Prop :=
  ∀ (p : Config.Params) (s : State) (k : Nat) (cw : ControlWord),
    s.outcome = .none → s.useq = .execute k 0 → (rom p (opcodeBits s.ir))[k]? = some cw →
    ticks p cw.length s =
      andThen (applyWord p cw (s.setStarted true)) fun t => .next (t.setUseq
        (if k + 1 < (rom p (opcodeBits s.ir)).length then .execute (k + 1) 0
         else if t.halted then .halted else .fetch1))

/-- Rule R166: a call of run, stepInstr or tick on a halted engine returns at once and changes nothing, and no tick
clears the halted flag. That calls on a halted engine change nothing is the spec's own choice (decision D15, log
entry 19). -/
def Obligations.HaltedEngineIsLeftAlone : Prop :=
  (∀ (p : Config.Params) (s : State), s.outcome = .none → s.useq = .halted →
    tick p s = .next s ∧ stepInstr p s = .next s ∧ step s = .next s ∧ ∀ k, run p k s = .final s) ∧
  (∀ (p : Config.Params) (s t : State), tick p s = .next t → s.halted = true → t.halted = true)

/-- Rule R173: a tick that faults or refuses leaves the state as before its effects, not HALTED, with the stop recorded;
it has no further tick, and the record is never cleared. The stops are the spec's own, model-only outcomes
(decisions D5 and D10), and where the record stands is the model's choice (log entry 15). -/
def Obligations.StopIsRecordedForGood : Prop :=
  ∀ (p : Config.Params) (s : State), s.outcome = .none →
    (∀ r, tick p s = .fault r →
      tickRecorded p s = { s with started := true, outcome := .fault r } ∧ (tickRecorded p s).useq ≠ .halted ∧
      tick p (tickRecorded p s) = .fault r ∧ tickRecorded p (tickRecorded p s) = tickRecorded p s) ∧
    (∀ r, tick p s = .refused r →
      tickRecorded p s = { s with started := true, outcome := .refused r } ∧ (tickRecorded p s).useq ≠ .halted ∧
      tick p (tickRecorded p s) = .refused r ∧ tickRecorded p (tickRecorded p s) = tickRecorded p s)

/-- Rule R167: the ticks of each instruction, from FETCH1 to the next instruction boundary and to none before it. The
grain of a tick is the spec's own choice (decision D1, log entries 14 and 21). The count of the reserved opcodes
rests on the policy the spec chose (decision D5, log entry 4). -/
def Obligations.TicksPerInstruction : Prop :=
  (∀ op : Nibble, instrTicks Config.machine op =
    match op.toNat with
    | 1 => 7 | 2 => 10 | 3 => 12 | 4 => 7 | 5 => 5 | 6 => 5 | 14 => 4 | 15 => 4 | _ => 3) ∧
  ∀ s : State, s.outcome = .none → s.useq = .fetch1 →
    let n := instrTicks Config.machine (opcodeBits (Memory.read s.mem (s.pc.toNat % 16)))
    (∃ t, ticks Config.machine n s = .next t ∧ atBoundary t = true) ∧
    ∀ k, 0 < k → k < n → ∃ t, ticks Config.machine k s = .next t ∧ atBoundary t = false

/-- Rule R31: IR is written only in FETCH2, so DECODE and EXECUTE leave it. -/
def Obligations.IrIsWrittenOnlyInFetch2 : Prop :=
  ∀ (p : Config.Params) (s t : State), tick p s = .next t → s.useq ≠ .fetch2 → t.ir = s.ir

/-- Rule R25: outside FETCH2 only JMP's second micro-operation changes PC (in the hardware as documented). That this
write keeps the low 4 bits of any bus value is the spec's own choice (decision D18, log entry 18). With the
extension PC has two more writers, which ExtensionJumpsIfCarry and ExtensionJumpsIfZero give. -/
def Obligations.PcIsWrittenOnlyInFetch2AndJmp : Prop :=
  ∀ (p : Config.Params) (s t : State), p.extCondJump = false → tick p s = .next t → s.useq ≠ .fetch2 →
    if opcodeBits s.ir = 6 ∧ s.useq = .execute 0 1 then t.pc.toNat = s.bus.toNat % 16 else t.pc = s.pc

/-- Rules R168 and R169 with decision D27: a run under fuel ends final only in HALTED, stopped only with the stop
recorded, and more fuel does not change a final or a stopped end. The fuel is the spec's own choice (log entry 22). -/
def Obligations.RunEndsFinalOnlyInHalted : Prop :=
  ∀ (p : Config.Params) (k : Nat) (s t : State),
    (run p k s = .final t → t.useq = .halted ∧ t.outcome = .none ∧ ∀ j, run p (k + j) s = .final t) ∧
    (run p k s = .stopped t → t.outcome ≠ .none ∧ ∀ j, run p (k + j) s = .stopped t)

/-! The step. -/

/-- A step of an engine at FETCH1 fetches the byte at PC (rules R161, R162) and runs the instruction it decodes to. -/
def Obligations.StepRunsTheDecodedInstruction : Prop :=
  ∀ (s : State) (i : Instr), s.outcome = .none → s.useq = .fetch1 →
    decode (Memory.read s.mem (s.pc.toNat % 16)) = i →
    step s = exec i { s with
      mar := s.pc, ir := Memory.read s.mem (s.pc.toNat % 16), pc := BitVec.ofNat 8 ((s.pc.toNat + 1) % 16), bus := 0,
      useq := .decode, started := true }

/-- An instruction placed by `withFetchWord` is the one the next step runs (log entry 13). -/
def Obligations.PlacedInstructionRunsNext : Prop :=
  ∀ (s : State) (nbits w : Nat) (i : Instr), Memory.wf s.mem = true → decodeTableWord nbits w = some i →
    ∃ b, decode b = i ∧ step (s.withFetchWord nbits w) = exec i { s.withFetchWord nbits w with
      mar := s.pc, ir := b, pc := BitVec.ofNat 8 ((s.pc.toNat + 1) % 16), bus := 0, useq := .decode, started := true }

/-- The microcoded engine and the instruction meanings are one machine: in every state, ticks until the next boundary
(rules R160 to R167) answer what one step answers. That a step from the middle of an instruction finishes it is
DEDUCED (log entry 9), and the two grains are the spec's own choice (decisions D1 and D21, log entry 14). -/
def Obligations.TickEngineEqualsStep : Prop :=
  ∀ s : State, stepInstr Config.machine s = step s

/-- The spec's own default `A_RESET_VALUE = none` (decision D10) differs from `step` in one thing: ADD, SUB and STA fault
while nothing has written A. The model's other value for A at reset is its own choice (log entry 1). -/
def Obligations.DocumentedDefaultDiffersOnlyOnUnwrittenA : Prop :=
  ∀ (d : Config.ResetDraw) (s : State), s.outcome = .none → s.useq = .fetch1 →
    let op := opcodeBits (Memory.read s.mem (s.pc.toNat % 16))
    stepInstr (Config.documented d) s =
      if s.aWritten = false ∧ (op = 2 ∨ op = 3 ∨ op = 4) then .fault .readUnwrittenA else step s

/-- Rule R225, `RESERVED_POLICY = Refuse`: the reserved opcodes are refused, and every other instruction runs as it
does. The policy is the spec's own variant (decision D5, log entry 4). -/
def Obligations.RefusePolicyRefusesReservedOpcodes : Prop :=
  ∀ s : State, s.outcome = .none → s.useq = .fetch1 →
    let op := opcodeBits (Memory.read s.mem (s.pc.toNat % 16))
    stepInstr { Config.machine with reservedPolicy := .refuse } s =
      if 7 ≤ op.toNat ∧ op.toNat ≤ 13 then .refused (.reservedOpcode op) else step s

/-- Rule R230, the extension's JC: the operand goes to the bus, and PC is set to it where FS.carry is true; an unwritten
FS faults. The opcode and the sense of the jump are from general knowledge, the rest the spec's own choice
(decisions D6, D7 and D12, log entries 5, 6 and 11). -/
def Obligations.ExtensionJumpsIfCarry : Prop :=
  ∀ (s : State) (n : Nibble), s.outcome = .none → s.useq = .fetch1 → s.halted = false →
    Memory.read s.mem (s.pc.toNat % 16) = instrByte 7 n →
    stepInstr { Config.machine with extCondJump := true } s =
      match s.fs with
      | none => .fault .readUnwrittenFlags
      | some f => .next { s with
          mar := s.pc, ir := instrByte 7 n, bus := zext8 n, started := true,
          pc := if f.carry then zext8 n else BitVec.ofNat 8 ((s.pc.toNat + 1) % 16) }

/-- Rule R231, the extension's JZ: as JC, on FS.zero. The opcode and the sense of the jump are from general knowledge,
the rest the spec's own choice (decisions D6, D7 and D12, log entries 5, 6 and 11). -/
def Obligations.ExtensionJumpsIfZero : Prop :=
  ∀ (s : State) (n : Nibble), s.outcome = .none → s.useq = .fetch1 → s.halted = false →
    Memory.read s.mem (s.pc.toNat % 16) = instrByte 8 n →
    stepInstr { Config.machine with extCondJump := true } s =
      match s.fs with
      | none => .fault .readUnwrittenFlags
      | some f => .next { s with
          mar := s.pc, ir := instrByte 8 n, bus := zext8 n, started := true,
          pc := if f.zero then zext8 n else BitVec.ofNat 8 ((s.pc.toNat + 1) % 16) }

/-- Rule R148: the extension replaces the entries 0x7 and 0x8 and changes no other instruction; at those two it runs the
meanings of JC and JZ. The extension is the spec's own variant (decision D6, log entry 5). -/
def Obligations.ExtensionReplacesTwoEntriesOnly : Prop :=
  ∀ s : State, s.outcome = .none → s.useq = .fetch1 →
    let b := Memory.read s.mem (s.pc.toNat % 16)
    let fetched := { s with
      mar := s.pc, ir := b, pc := BitVec.ofNat 8 ((s.pc.toNat + 1) % 16), bus := 0, useq := .decode, started := true }
    stepInstr { Config.machine with extCondJump := true } s =
      if opcodeBits b = 7 then execJc (operandBits b) fetched
      else if opcodeBits b = 8 then execJz (operandBits b) fetched
      else step s

/-! What each instruction does. Each statement gives the whole next state, so it is the frame as well: a field that is
not named is unchanged, every byte of memory included. -/

/-- Rule R181. -/
def Obligations.LdaLoadsTheCell : Prop :=
  ∀ (n : Nibble) (s : State),
    decode (instrByte 1 n) = .lda n ∧
    rom Config.machine 1 = [[.irDataToBus, .busToMar], [.memToBus, .busToA]] ∧
    exec (.lda n) s = .next { s with
      mar := zext8 n, a := Memory.read s.mem n.toNat, aWritten := true, bus := 0,
      useq := if s.halted then .halted else .fetch1 }

/-- Rule R182: STA's store, at the address its meaning computes; and under `A_RESET_VALUE = none` the fault of its
second step while A is unwritten (the spec's own choice, decision D10). That the bus keeps A, `BusToMem` being a
peek, is the spec's own choice (decision D7, log entry 6), and the canonical form, `Memory.wf`, is the model's (log
entry 3). -/
def Obligations.StaStoresA : Prop :=
  ∀ (n : Nibble) (s : State), Memory.wf s.mem = true →
    decode (instrByte 4 n) = .sta n ∧
    rom Config.machine 4 = [[.irDataToBus, .busToMar], [.aToBus, .busToMem]] ∧
    cellOf (addressOperand n s).mar = n.toNat ∧
    (∃ t, exec (.sta n) s = .next t ∧
      t = { s with mem := t.mem, mar := zext8 n, bus := s.a, useq := if s.halted then .halted else .fetch1 } ∧
      Memory.wf t.mem = true ∧
      ∀ a, cellOf (addressOperand n s).mar = a →
        Memory.read t.mem a = s.a ∧ ∀ a', a' ≠ a → Memory.read t.mem a' = Memory.read s.mem a') ∧
    (∀ p : Config.Params, p.aResetValue = none → s.aWritten = false → s.outcome = .none →
      s.useq = .execute 1 0 → opcodeBits s.ir = 4 → tick p s = .fault .readUnwrittenA)

/-- Rule R183. -/
def Obligations.LdiLoadsTheOperand : Prop :=
  ∀ (n : Nibble) (s : State),
    decode (instrByte 5 n) = .ldi n ∧ rom Config.machine 5 = [[.irDataToBus, .busToA]] ∧
    exec (.ldi n) s = .next { s with
      a := zext8 n, aWritten := true, bus := 0, useq := if s.halted then .halted else .fetch1 } ∧
    (zext8 n).toNat = n.toNat

/-- Rule R202, from ADD mode, which every instruction boundary is in (StepKeepsInvariant): the sum, carry and zero, the flag
store and its event, and B and MAR. Under `A_RESET_VALUE = none` the tick that would read an unwritten A faults instead
(the spec's own choice, decision D10). -/
def Obligations.AddAddsTheCell : Prop :=
  ∀ (n : Nibble) (s : State), s.aluSub = false →
    let m := Memory.read s.mem n.toNat
    let sum := s.a.toNat + m.toNat
    let flags : FlagPair := { zero := decide (sum % 256 = 0), carry := decide (sum ≥ 256) }
    decode (instrByte 2 n) = .add n ∧
    rom Config.machine 2 =
      [[.irDataToBus, .busToMar], [.memToBus, .busToB], [.aluToBus, .busToA, .storeFlags]] ∧
    exec (.add n) s = .next { s with
      mar := zext8 n, b := m, a := BitVec.ofNat 8 (sum % 256), aWritten := true, bus := 0,
      aluZero := flags.zero, aluCarry := flags.carry, fs := some flags, fsTrace := s.fsTrace ++ [flags],
      useq := if s.halted then .halted else .fetch1 } ∧
    (∀ p : Config.Params, p.aResetValue = none → s.aWritten = false → s.outcome = .none →
      s.useq = .execute 2 0 → opcodeBits s.ir = 2 → tick p s = .fault .readUnwrittenA)

/-- Rule R203, from either mode: SUB sets SUBTRACT mode itself and leaves ADD mode. Carry is false where the subtrahend
is 0 (conflict C5, log entry 17). The fault on an unwritten A is as for ADD. The placement of the mode changes, which
the ROM clause and the tick that faults rest on, is the spec's own choice (decision D8, log entry 7). -/
def Obligations.SubSubtractsTheCell : Prop :=
  ∀ (n : Nibble) (s : State),
    let m := Memory.read s.mem n.toNat
    let flags : FlagPair := { zero := decide (s.a = m), carry := decide (m ≠ 0 ∧ s.a.toNat ≥ m.toNat) }
    decode (instrByte 3 n) = .sub n ∧
    rom Config.machine 3 =
      [[.irDataToBus, .busToMar], [.memToBus, .busToB],
        [.setSubtract, .aluToBus, .busToA, .storeFlags, .resetSubtract]] ∧
    exec (.sub n) s = .next { s with
      mar := zext8 n, b := m, a := s.a - m, aWritten := true, bus := 0, aluSub := false,
      aluZero := flags.zero, aluCarry := flags.carry, fs := some flags, fsTrace := s.fsTrace ++ [flags],
      useq := if s.halted then .halted else .fetch1 } ∧
    (∀ p : Config.Params, p.aResetValue = none → s.aWritten = false → s.outcome = .none →
      s.useq = .execute 2 1 → opcodeBits s.ir = 3 → tick p s = .fault .readUnwrittenA)

/-- ADD and SUB complete in either ALU mode, ADD in the mode it finds (rules R131, R133, R137): the general form of their
results, with the ALU's own words for the value and the flags. -/
def Obligations.AddRunsInTheModeItFinds : Prop :=
  ∀ (n : Nibble) (s : State),
    let r := getResult s.aluSub s.a (Memory.read s.mem n.toNat)
    exec (.add n) s = .next { s with
      mar := zext8 n, b := Memory.read s.mem n.toNat, a := r.value, aWritten := true, bus := 0,
      aluZero := r.zero, aluCarry := r.carry, fs := some ⟨r.zero, r.carry⟩, fsTrace := s.fsTrace ++ [⟨r.zero, r.carry⟩],
      useq := if s.halted then .halted else .fetch1 }

/-- Rules R221 and R225 (`RESERVED_POLICY = Nop`): NOP and the seven reserved opcodes have no steps, whatever their operand
bits, and leave only the fetch's effects. For the reserved opcodes this is the policy the spec chose (decision D5, log
entry 4). -/
def Obligations.NopAndReservedOnlyFetch : Prop :=
  (∀ (x : Nibble) (s : State) (i : Instr),
    i ∈ [Instr.nop x, .rsv7 x, .rsv8 x, .rsv9 x, .rsvA x, .rsvB x, .rsvC x, .rsvD x] →
    rom Config.machine i.opcode = [] ∧ exec i s = .next { s with useq := .fetch1 }) ∧
  (∀ s : State, s.outcome = .none → s.useq = .fetch1 →
    let b := Memory.read s.mem (s.pc.toNat % 16)
    opcodeBits b = 0 ∨ (7 ≤ (opcodeBits b).toNat ∧ (opcodeBits b).toNat ≤ 13) →
    step s = .next { s with
      mar := s.pc, ir := b, pc := BitVec.ofNat 8 ((s.pc.toNat + 1) % 16), bus := 0, started := true })

/-- Rule R222. That the bus keeps the target, `BusToPc` being a peek, is the spec's own choice (decision D7, log
entry 6). -/
def Obligations.JmpSetsPc : Prop :=
  ∀ (n : Nibble) (s : State),
    decode (instrByte 6 n) = .jmp n ∧ rom Config.machine 6 = [[.irDataToBus, .busToPc]] ∧
    exec (.jmp n) s = .next { s with
      pc := zext8 n, bus := zext8 n, useq := if s.halted then .halted else .fetch1 }

/-- Rule R223: OUT hands the current bus value to the output latch, and in every step that runs it that value is 0x00,
whatever A holds (conflict C10). That OUT has no bus writer is the spec's reading (decision D9, log entry 10).
That OUT leaves the bus, `BusToOut` being a peek, is the spec's own choice too (decision D7, log entry 6). -/
def Obligations.OutEmitsTheClearedBus : Prop :=
  (∀ (x : Nibble) (s : State),
    decode (instrByte 14 x) = .out x ∧ rom Config.machine 14 = [[.busToOut]] ∧
    exec (.out x) s = .next { s with
      outTrace := s.outTrace ++ [s.bus], useq := if s.halted then .halted else .fetch1 }) ∧
  (∀ s : State, s.outcome = .none → s.useq = .fetch1 →
    opcodeBits (Memory.read s.mem (s.pc.toNat % 16)) = 14 →
    ∃ t, step s = .next t ∧ t.outTrace = s.outTrace ++ [0x00] ∧ t.bus = 0 ∧ t.a = s.a)

/-- Rule R224. -/
def Obligations.HltHalts : Prop :=
  ∀ (x : Nibble) (s : State),
    decode (instrByte 15 x) = .hlt x ∧ rom Config.machine 15 = [[.halt]] ∧
    exec (.hlt x) s = .next { s with halted := true, useq := .halted }

/-- Rules R224 and R170: every byte 0xF0 to 0xFF halts; the state the halt leaves, and that no further step or tick changes
it: that both answer that state is the spec's own choice (decision D15, log entry 19). -/
def Obligations.HaltIsFinal : Prop :=
  rom Config.machine 15 = [[.halt]] ∧ ∀ s : State, s.outcome = .none → s.useq = .fetch1 →
    let b := Memory.read s.mem (s.pc.toNat % 16)
    opcodeBits b = 15 →
    ∃ t, step s = .next t ∧
      t = { s with
        mar := s.pc, ir := b, pc := BitVec.ofNat 8 ((s.pc.toNat + 1) % 16), bus := 0, started := true,
        halted := true, useq := .halted } ∧
      ∀ k, ticks Config.machine k t = .next t ∧ steps k t = .next t

/-! Whole-machine rules over every instruction. -/

/-- Rule R29: no instruction but ADD and SUB changes ALU.zero, ALU.carry, FS or its trace. -/
def Obligations.FlagsChangedOnlyByAddAndSub : Prop :=
  ∀ (i : Instr) (s t : State), exec i s = .next t → (∀ n, i ≠ .add n) → (∀ n, i ≠ .sub n) →
    t.aluZero = s.aluZero ∧ t.aluCarry = s.aluCarry ∧ t.fs = s.fs ∧ t.fsTrace = s.fsTrace

/-- Rule R53: no instruction but STA changes a byte of memory; STA changes none but the one at its operand. -/
def Obligations.MemoryChangedOnlyBySta : Prop :=
  ∀ (i : Instr) (s t : State), exec i s = .next t →
    ∀ a, i ≠ .sta (BitVec.ofNat 4 a) ∨ 16 ≤ a → Memory.read t.mem a = Memory.read s.mem a

/-- The frame of the registers, the traces and the flags of the engine, instruction by instruction (rules R21, R22, R24,
R30, R35): each is left alone by every instruction the spec does not name as its writer. -/
def Obligations.RegistersChangedOnlyByTheirInstructions : Prop :=
  ∀ (i : Instr) (s t : State), exec i s = .next t →
    (i.opcode ≠ 1 → i.opcode ≠ 2 → i.opcode ≠ 3 → i.opcode ≠ 5 → t.a = s.a ∧ t.aWritten = s.aWritten) ∧
    (i.opcode ≠ 2 → i.opcode ≠ 3 → t.b = s.b) ∧
    (i.opcode ≠ 1 → i.opcode ≠ 2 → i.opcode ≠ 3 → i.opcode ≠ 4 → t.mar = s.mar) ∧
    (i.opcode ≠ 6 → t.pc = s.pc) ∧ (i.opcode ≠ 14 → t.outTrace = s.outTrace) ∧
    (i.opcode ≠ 15 → t.halted = s.halted) ∧ (i.opcode ≠ 3 → t.aluSub = s.aluSub) ∧
    t.ir = s.ir ∧ t.started = s.started ∧ t.outcome = s.outcome

/-- Rules R64 and R182: a byte stored by STA is what a later fetch of its cell runs, with nothing needed in between, the
cell of the STA itself and the one after it included; the STA completes as fetched. Memory outside the stored cell
is StaStoresA's. That the bus keeps A is the spec's own choice (decision D7, log entry 6), and the canonical form,
`Memory.wf`, is the model's (log entry 3). -/
def Obligations.StoredByteIsWhatALaterFetchRuns : Prop :=
  ∀ (s : State) (n : Nibble), s.outcome = .none → s.useq = .fetch1 → Memory.wf s.mem = true →
    Memory.read s.mem (s.pc.toNat % 16) = instrByte 4 n →
    ∃ t, step s = .next t ∧
      t = { s with
        mem := t.mem, mar := zext8 n, ir := instrByte 4 n, pc := BitVec.ofNat 8 ((s.pc.toNat + 1) % 16), bus := s.a,
        started := true, useq := if s.halted then .halted else .fetch1 } ∧
      ∀ u : State, u.outcome = .none → u.useq = .fetch1 → u.mem = t.mem → u.pc.toNat % 16 = n.toNat →
        step u = exec (decode s.a) { u with
          mar := u.pc, ir := s.a, pc := BitVec.ofNat 8 ((u.pc.toNat + 1) % 16), bus := 0, useq := .decode,
          started := true }

/-- Rules R169 and R222: a jump to its own cell runs for ever, and never halts. -/
def Obligations.JumpToItselfNeverHalts : Prop :=
  ∀ s : State, s.outcome = .none → s.useq = .fetch1 → s.halted = false → s.pc.toNat < 16 →
    Memory.read s.mem s.pc.toNat = instrByte 6 (BitVec.ofNat 4 s.pc.toNat) →
    ∀ k, ∃ t, steps k s = .next t ∧ t.useq = .fetch1 ∧ t.pc = s.pc

/-! Reset and load. -/

/-- Rules R37 and R280: what reset and the host's load leave, under every choice of the parameters. The values that
`State.reset` holds where the spec gives none are the model's choice (log entries 1 and 2) and not claimed here. -/
def Obligations.ResetThenLoadLeaves : Prop :=
  State.reset = State.resetWith Config.machine ∧
  ∀ (p : Config.Params) (image : Vector Byte 16), ∃ t, load image (State.resetWith p) = .next t ∧
    t.useq = .fetch1 ∧ t.pc = 0 ∧ t.halted = false ∧ t.aluSub = false ∧
    (∀ i : Fin 16, Memory.read t.mem i.val = image[i]) ∧
    t.aWritten = false ∧ (∀ v, p.aResetValue = some v → t.a = v) ∧
    t.b = p.resetDraw.b ∧ t.mar = p.resetDraw.mar ∧ t.ir = p.resetDraw.ir ∧ t.bus = p.resetDraw.bus ∧
    t.aluZero = p.resetDraw.aluZero ∧ t.aluCarry = p.resetDraw.aluCarry ∧ t.fs = none ∧
    t.outTrace = [] ∧ t.fsTrace = [] ∧ t.started = false ∧ t.outcome = .none

/-- Rule R281: before the first tick the load replaces memory wholesale and changes nothing else, and of two loads the
second counts; after any tick it is refused. The refusal is the spec's own choice (decision D14, log entry 12), and
the canonical form, `Memory.wf`, the model's (log entry 3). -/
def Obligations.LoadReplacesMemoryBeforeTheFirstTick : Prop :=
  (∀ (image : Vector Byte 16) (s : State), s.started = false →
    ∃ m, load image s = .next { s with mem := m } ∧ Memory.wf m = true ∧
      (∀ i : Fin 16, Memory.read m i.val = image[i]) ∧
      ∀ first : Vector Byte 16, andThen (load first s) (load image) = load image s) ∧
  (∀ (image : Vector Byte 16) (s : State), s.started = true → load image s = .refused .loadWhileRunning) ∧
  (∀ (p : Config.Params) (s t : State), tick p s = .next t → s.useq ≠ .halted → t.started = true) ∧
  (∀ (p : Config.Params) (s t : State), tick p s = .next t → s.started = true → t.started = true)

/-! The invariant (rule R33). -/

/-- The state after reset meets the invariant, under every choice of the parameters, and so does the state after the
load. The clause on canonical memory is the model's own (log entry 3), here and below. -/
def Obligations.ResetAndLoadMeetInvariant : Prop :=
  ∀ p : Config.Params, Inv p (State.resetWith p) ∧
    ∀ (s t : State) (image : Vector Byte 16), Inv p s → load image s = .next t → Inv p t

/-- Rule R33: every tick keeps the invariant, under every choice of the parameters. That `PC.set` keeps the low 4
bits, which holds PC below 16 in states no run reaches too, is the spec's own choice (decision D18, log entry 18). -/
def Obligations.TickKeepsInvariant : Prop :=
  ∀ (p : Config.Params) (s t : State), Inv p s → tick p s = .next t → Inv p t

/-- Rule R33 at the grain of instructions: every step keeps the invariant, and ends at an instruction boundary, in ADD
mode. The mask of `PC.set` is as for TickKeepsInvariant (log entry 18). -/
def Obligations.StepKeepsInvariant : Prop :=
  ∀ s t : State, Inv Config.machine s → step s = .next t →
    Inv Config.machine t ∧ atBoundary t = true ∧ t.aluSub = false

/-- Rules R250 and R59: in every state of the invariant without a recorded stop, the step answers a next state, again
without one: nothing traps, faults or is refused, for as many steps as are run. On an unwritten A this rests on the
value A holds at reset, the model's choice (log entry 1). -/
def Obligations.MachineNeverStops : Prop :=
  ∀ s : State, Inv Config.machine s → s.outcome = .none →
    ∀ k, ∃ t, steps k s = .next t ∧ Inv Config.machine t ∧ t.outcome = .none

/-- Decision D10 under the spec's own default: the one stop of a tick is the fault on an unwritten A, in the step of
ADD, SUB or STA that reads it. The fault is the spec's own choice (log entry 1), and so is its place in SUB
(decision D8, log entry 7). -/
def Obligations.DocumentedDefaultStopsOnlyOnUnwrittenA : Prop :=
  ∀ (d : Config.ResetDraw) (s : State), Inv (Config.documented d) s → s.outcome = .none →
    if s.aWritten = false ∧
        ((opcodeBits s.ir = 2 ∧ s.useq = .execute 2 0) ∨ (opcodeBits s.ir = 3 ∧ s.useq = .execute 2 1) ∨
          (opcodeBits s.ir = 4 ∧ s.useq = .execute 1 0)) then
      tick (Config.documented d) s = .fault .readUnwrittenA
    else ∃ t, tick (Config.documented d) s = .next t

/-- Rule R172: from an instruction boundary, what a run does depends on none of the reset draws: two states that differ
in them alone run alike, and still differ in them alone. The draws are the spec's own choice (decision D11, log
entry 2). -/
def Obligations.RunDoesNotDependOnResetDraws : Prop :=
  ∀ (s t : State), SameButDraws s t → atBoundary s = true →
    ∀ k, SameOutcome (steps k s) (steps k t)

/-! Recorded stops (rules R173, R256). -/

/-- Rule R256 with decision D14: a load after the first tick leaves the state as it was with the refusal recorded, and
that state has no further tick or step, ends every run as stopped and keeps its record; a stop of another kind that is
already recorded outlives a refused load (log entries 12 and 15). -/
def Obligations.LoadRefusalIsRecordedForGood : Prop :=
  ∀ (image : Vector Byte 16) (s : State), s.started = true →
    (s.outcome = .none →
      let u := loadRecorded image s
      u = { s with outcome := .refused .loadWhileRunning } ∧
      (∀ p : Config.Params, tick p u = .refused .loadWhileRunning ∧ tickRecorded p u = u ∧
        stepInstr p u = .refused .loadWhileRunning ∧ ∀ k, run p k u = .stopped u) ∧
      step u = .refused .loadWhileRunning ∧ ∀ later : Vector Byte 16, loadRecorded later u = u) ∧
    (s.outcome ≠ .none → loadRecorded image s = s)

/-- Recording a stop keeps the invariant: the state a tick leaves and the state the host's load leaves meet it,
whether the tick or the load went on or was stopped. The mask of `PC.set` is as for TickKeepsInvariant (log entry
18). -/
def Obligations.RecordedStopsKeepInvariant : Prop :=
  ∀ (p : Config.Params) (s : State), Inv p s →
    (s.outcome = .none → Inv p (tickRecorded p s)) ∧ ∀ image : Vector Byte 16, Inv p (loadRecorded image s)
end

