-- ==== Sys2Proof/Laws/Bits.lean ====
section
/-! SUPPORT. The small lemmas of the bit fields: opcode and operand of a byte, `zext_8`, the cell a byte selects and
the value `PC.set` stores. -/

namespace Sys2Proof

/-- The opcode is the high nibble, `(b & 0xF0) >> 4` (rule R12). -/
theorem opcodeBits_toNat (b : Byte) : (opcodeBits b).toNat = b.toNat / 16 := by
  have h := b.isLt
  simp only [opcodeBits, BitVec.extractLsb'_toNat, Nat.shiftRight_eq_div_pow]
  omega

/-- The operand is the low nibble, `b & 0x0F` (rule R12). -/
theorem operandBits_toNat (b : Byte) : (operandBits b).toNat = b.toNat % 16 := by
  simp [operandBits]

/-- The byte of opcode `op` and operand `n` is `16*op + n` (rule R71). -/
theorem instrByte_toNat (op n : Nibble) : (instrByte op n).toNat = 16 * op.toNat + n.toNat := by
  have h := n.isLt
  simp only [instrByte, BitVec.toNat_append]
  rw [← Nat.shiftLeft_add_eq_or_of_lt (by omega), Nat.shiftLeft_eq]
  omega

@[simp] theorem opcodeBits_instrByte (op n : Nibble) : opcodeBits (instrByte op n) = op := by
  have h := n.isLt
  apply BitVec.eq_of_toNat_eq
  rw [opcodeBits_toNat, instrByte_toNat]
  omega

@[simp] theorem operandBits_instrByte (op n : Nibble) : operandBits (instrByte op n) = n := by
  have h := n.isLt
  apply BitVec.eq_of_toNat_eq
  rw [operandBits_toNat, instrByte_toNat]
  omega

@[simp] theorem instrByte_bits (b : Byte) : instrByte (opcodeBits b) (operandBits b) = b := by
  apply BitVec.eq_of_toNat_eq
  rw [instrByte_toNat, opcodeBits_toNat, operandBits_toNat]
  omega

namespace Machine

@[simp] theorem zext8_toNat (n : Nibble) : (zext8 n).toNat = n.toNat := by
  have h := n.isLt
  simp [zext8]
  omega

theorem zext8_lt (n : Nibble) : (zext8 n).toNat < Config.memorySize := by
  have h := n.isLt
  simp [Config.memorySize]
  omega

@[simp] theorem operandBits_zext8 (n : Nibble) : operandBits (zext8 n) = n := by
  have h := n.isLt
  apply BitVec.eq_of_toNat_eq
  rw [operandBits_toNat, zext8_toNat]
  omega

@[simp] theorem cellOf_zext8 (n : Nibble) : cellOf (zext8 n) = n.toNat := by simp [cellOf]

/-- The cell a byte selects is its value modulo 16. -/
theorem cellOf_eq_mod (v : Byte) : cellOf v = v.toNat % 16 := operandBits_toNat v

/-- Every address-bearing byte selects a cell that exists (rule R59). -/
theorem cellOf_lt (v : Byte) : cellOf v < Config.memorySize := (operandBits v).isLt

/-- A byte in 0..15 selects the cell of that number. -/
theorem cellOf_of_lt {v : Byte} (h : v.toNat < Config.memorySize) : cellOf v = v.toNat := by
  simp only [cellOf, operandBits_toNat, Config.memorySize] at *
  omega

@[simp] theorem pcOf_zext8 (n : Nibble) : pcOf (zext8 n) = zext8 n := by simp [pcOf]

theorem pcOf_lt (v : Byte) : (pcOf v).toNat < Config.memorySize := zext8_lt _

end Machine

end Sys2Proof
end

