-- ==== Sys2Proof/Laws/Decode.lean ====
section
/-! SUPPORT. What the decoder and the encoder do with the fields of a byte. -/

namespace Sys2Proof

/-- The sixteen nibbles, for a case split on an opcode. -/
theorem nibble_cases (op : Nibble) :
    op = 0 ∨ op = 1 ∨ op = 2 ∨ op = 3 ∨ op = 4 ∨ op = 5 ∨ op = 6 ∨ op = 7 ∨
    op = 8 ∨ op = 9 ∨ op = 10 ∨ op = 11 ∨ op = 12 ∨ op = 13 ∨ op = 14 ∨ op = 15 := by
  have h : op = BitVec.ofNat 4 op.toNat := by simp
  have hlt := op.isLt
  generalize op.toNat = k at *
  subst h
  revert k hlt
  decide

@[simp] theorem opcodeBits_encode (i : Instr) : opcodeBits (encode i) = i.opcode := opcodeBits_instrByte _ _

@[simp] theorem operandBits_encode (i : Instr) : operandBits (encode i) = i.operand := operandBits_instrByte _ _

/-- Decoding depends on the two fields alone: the opcode of what a byte decodes to is its high nibble. -/
@[simp] theorem opcode_decode (b : Byte) : (decode b).opcode = opcodeBits b := by
  unfold decode
  rcases nibble_cases (opcodeBits b) with h | h | h | h | h | h | h | h | h | h | h | h | h | h | h | h <;>
    rw [h] <;> rfl

/-- The operand of what a byte decodes to is its low nibble. -/
@[simp] theorem operand_decode (b : Byte) : (decode b).operand = operandBits b := by
  unfold decode
  rcases nibble_cases (opcodeBits b) with h | h | h | h | h | h | h | h | h | h | h | h | h | h | h | h <;>
    rw [h] <;> rfl

end Sys2Proof
end

