-- ==== Sys2Proof/Laws/Memory.lean ====
section
/-! SUPPORT. The laws of memory: read after write, and that every operation keeps the canonical form. -/

namespace Sys2Proof.Machine.Memory

@[simp] theorem read_nil (a : Nat) : read [] a = Config.unlistedByte := rfl

theorem wfFrom_cons {lo k : Nat} {v : Byte} {m : Memory} :
    wfFrom lo ((k, v) :: m) = true ↔
      lo ≤ k ∧ k < Config.memorySize ∧ v ≠ Config.unlistedByte ∧ wfFrom (k + 1) m = true := by
  simp [wfFrom, and_assoc]

/-- A form from a higher address on is one from a lower address on. -/
theorem wfFrom_mono {lo lo' : Nat} {m : Memory} (hle : lo' ≤ lo) (h : wfFrom lo m = true) :
    wfFrom lo' m = true := by
  cases m with
  | nil => rfl
  | cons c m => exact wfFrom_cons.2 ⟨Nat.le_trans hle (wfFrom_cons.1 h).1, (wfFrom_cons.1 h).2⟩

/-- Below the form's first address every cell reads as an unlisted one. -/
theorem read_below {lo a : Nat} {m : Memory} (h : wfFrom lo m = true) (ha : a < lo) :
    read m a = Config.unlistedByte := by
  induction m generalizing lo with
  | nil => rfl
  | cons c m ih =>
    obtain ⟨hlo, -, -, hm⟩ := wfFrom_cons.1 h
    rw [read, if_neg (by omega)]
    exact ih hm (by omega)

theorem read_entry_self {a : Nat} {v : Byte} {m : Memory} (h : wfFrom (a + 1) m = true) :
    read (entry a v m) a = v := by
  unfold entry
  split
  · next hv => rw [hv]; exact read_below h (by omega)
  · simp [read]

theorem read_entry_ne {a b : Nat} {v : Byte} {m : Memory} (h : a ≠ b) : read (entry a v m) b = read m b := by
  unfold entry
  split
  · rfl
  · simp [read, h]

/-- A cell written reads as the byte written. -/
theorem read_write_self {m : Memory} {a : Nat} {v : Byte} (h : wf m = true) : read (write m a v) a = v := by
  suffices hs : ∀ (m : Memory) lo, lo ≤ a → wfFrom lo m = true → read (write m a v) a = v from
    hs m 0 (Nat.zero_le a) h
  intro m
  induction m with
  | nil => intro lo _ _; exact read_entry_self rfl
  | cons c m ih =>
    intro lo _ hm
    have hc := wfFrom_cons.1 hm
    rw [write]
    split
    · exact read_entry_self (wfFrom_cons.2 ⟨by omega, hc.2⟩)
    · split
      · next heq => subst heq; exact read_entry_self hc.2.2.2
      · rw [read, if_neg (by omega)]
        exact ih _ (by omega) hc.2.2.2

/-- A write leaves every other cell alone. -/
theorem read_write_ne {m : Memory} {a b : Nat} {v : Byte} (h : a ≠ b) : read (write m a v) b = read m b := by
  induction m with
  | nil => exact read_entry_ne h
  | cons c m ih =>
    rw [write]
    split
    · exact read_entry_ne h
    · split
      · next heq => subst heq; rw [read_entry_ne h, read, if_neg h]
      · rw [read, ih, read]

theorem wfFrom_entry {lo a : Nat} {v : Byte} {m : Memory} (hlo : lo ≤ a) (ha : a < Config.memorySize)
    (h : wfFrom (a + 1) m = true) : wfFrom lo (entry a v m) = true := by
  unfold entry
  split
  · exact wfFrom_mono (by omega) h
  · next hv => exact wfFrom_cons.2 ⟨hlo, ha, hv, h⟩

/-- A write to a cell that exists keeps the canonical form. -/
theorem wf_write {m : Memory} {a : Nat} {v : Byte} (ha : a < Config.memorySize) (h : wf m = true) :
    wf (write m a v) = true := by
  suffices hs : ∀ (m : Memory) lo, lo ≤ a → wfFrom lo m = true → wfFrom lo (write m a v) = true from
    hs m 0 (Nat.zero_le a) h
  intro m
  induction m with
  | nil => intro lo hlo _; exact wfFrom_entry hlo ha rfl
  | cons c m ih =>
    intro lo hlo hm
    have hc := wfFrom_cons.1 hm
    rw [write]
    split
    · exact wfFrom_entry hlo ha (wfFrom_cons.2 ⟨by omega, hc.2⟩)
    · split
      · next heq => subst heq; exact wfFrom_entry hlo ha hc.2.2.2
      · exact wfFrom_cons.2 ⟨hc.1, hc.2.1, hc.2.2.1, ih _ (by omega) hc.2.2.2⟩

/-- Writing a list of cells that all exist keeps the canonical form. -/
theorem wf_writeAll {l : List Byte} {m : Memory} {a : Nat} (ha : a + l.length ≤ Config.memorySize)
    (h : wf m = true) : wf (writeAll m a l) = true := by
  induction l generalizing m a with
  | nil => exact h
  | cons v l ih =>
    simp only [List.length_cons] at ha
    exact ih (by omega) (wf_write (by omega) h)

/-- Outside the cells written, `writeAll` leaves memory alone. -/
theorem read_writeAll_below {l : List Byte} {m : Memory} {a b : Nat} (hb : b < a) :
    read (writeAll m a l) b = read m b := by
  induction l generalizing m a with
  | nil => rfl
  | cons v l ih => rw [writeAll, ih (by omega), read_write_ne (by omega)]

/-- The cells written by `writeAll` read as the bytes of the list. -/
theorem read_writeAll {l : List Byte} {m : Memory} {a i : Nat} (ha : a + l.length ≤ Config.memorySize)
    (h : wf m = true) (hi : i < l.length) : read (writeAll m a l) (a + i) = l[i] := by
  induction l generalizing m a i with
  | nil => simp at hi
  | cons v l ih =>
    simp only [List.length_cons] at ha hi
    rw [writeAll]
    cases i with
    | zero => rw [read_writeAll_below (by omega)]; exact read_write_self h
    | succ j =>
      rw [show a + (j + 1) = a + 1 + j by omega]
      exact ih (by omega) (wf_write (by omega) h) (by omega)

end Sys2Proof.Machine.Memory
end

