-- ==== Sys2Proof/Laws/State.lean ====
section
/-! SUPPORT. One lemma per field and setter of State: the field written reads as the value, every other field as before. -/

namespace Sys2Proof.Machine.State

@[simp] theorem setMem_mem (s : State) (m : Memory) : (s.setMem m).mem = m := rfl
@[simp] theorem setMem_a (s : State) (m : Memory) : (s.setMem m).a = s.a := rfl
@[simp] theorem setMem_aWritten (s : State) (m : Memory) : (s.setMem m).aWritten = s.aWritten := rfl
@[simp] theorem setMem_b (s : State) (m : Memory) : (s.setMem m).b = s.b := rfl
@[simp] theorem setMem_mar (s : State) (m : Memory) : (s.setMem m).mar = s.mar := rfl
@[simp] theorem setMem_ir (s : State) (m : Memory) : (s.setMem m).ir = s.ir := rfl
@[simp] theorem setMem_pc (s : State) (m : Memory) : (s.setMem m).pc = s.pc := rfl
@[simp] theorem setMem_bus (s : State) (m : Memory) : (s.setMem m).bus = s.bus := rfl
@[simp] theorem setMem_aluZero (s : State) (m : Memory) : (s.setMem m).aluZero = s.aluZero := rfl
@[simp] theorem setMem_aluCarry (s : State) (m : Memory) : (s.setMem m).aluCarry = s.aluCarry := rfl
@[simp] theorem setMem_aluSub (s : State) (m : Memory) : (s.setMem m).aluSub = s.aluSub := rfl
@[simp] theorem setMem_fs (s : State) (m : Memory) : (s.setMem m).fs = s.fs := rfl
@[simp] theorem setMem_halted (s : State) (m : Memory) : (s.setMem m).halted = s.halted := rfl
@[simp] theorem setMem_useq (s : State) (m : Memory) : (s.setMem m).useq = s.useq := rfl
@[simp] theorem setMem_outTrace (s : State) (m : Memory) : (s.setMem m).outTrace = s.outTrace := rfl
@[simp] theorem setMem_fsTrace (s : State) (m : Memory) : (s.setMem m).fsTrace = s.fsTrace := rfl
@[simp] theorem setMem_started (s : State) (m : Memory) : (s.setMem m).started = s.started := rfl
@[simp] theorem setMem_outcome (s : State) (m : Memory) : (s.setMem m).outcome = s.outcome := rfl

@[simp] theorem setA_mem (s : State) (v : Byte) : (s.setA v).mem = s.mem := rfl
@[simp] theorem setA_a (s : State) (v : Byte) : (s.setA v).a = v := rfl
@[simp] theorem setA_aWritten (s : State) (v : Byte) : (s.setA v).aWritten = true := rfl
@[simp] theorem setA_b (s : State) (v : Byte) : (s.setA v).b = s.b := rfl
@[simp] theorem setA_mar (s : State) (v : Byte) : (s.setA v).mar = s.mar := rfl
@[simp] theorem setA_ir (s : State) (v : Byte) : (s.setA v).ir = s.ir := rfl
@[simp] theorem setA_pc (s : State) (v : Byte) : (s.setA v).pc = s.pc := rfl
@[simp] theorem setA_bus (s : State) (v : Byte) : (s.setA v).bus = s.bus := rfl
@[simp] theorem setA_aluZero (s : State) (v : Byte) : (s.setA v).aluZero = s.aluZero := rfl
@[simp] theorem setA_aluCarry (s : State) (v : Byte) : (s.setA v).aluCarry = s.aluCarry := rfl
@[simp] theorem setA_aluSub (s : State) (v : Byte) : (s.setA v).aluSub = s.aluSub := rfl
@[simp] theorem setA_fs (s : State) (v : Byte) : (s.setA v).fs = s.fs := rfl
@[simp] theorem setA_halted (s : State) (v : Byte) : (s.setA v).halted = s.halted := rfl
@[simp] theorem setA_useq (s : State) (v : Byte) : (s.setA v).useq = s.useq := rfl
@[simp] theorem setA_outTrace (s : State) (v : Byte) : (s.setA v).outTrace = s.outTrace := rfl
@[simp] theorem setA_fsTrace (s : State) (v : Byte) : (s.setA v).fsTrace = s.fsTrace := rfl
@[simp] theorem setA_started (s : State) (v : Byte) : (s.setA v).started = s.started := rfl
@[simp] theorem setA_outcome (s : State) (v : Byte) : (s.setA v).outcome = s.outcome := rfl

@[simp] theorem setB_mem (s : State) (v : Byte) : (s.setB v).mem = s.mem := rfl
@[simp] theorem setB_a (s : State) (v : Byte) : (s.setB v).a = s.a := rfl
@[simp] theorem setB_aWritten (s : State) (v : Byte) : (s.setB v).aWritten = s.aWritten := rfl
@[simp] theorem setB_b (s : State) (v : Byte) : (s.setB v).b = v := rfl
@[simp] theorem setB_mar (s : State) (v : Byte) : (s.setB v).mar = s.mar := rfl
@[simp] theorem setB_ir (s : State) (v : Byte) : (s.setB v).ir = s.ir := rfl
@[simp] theorem setB_pc (s : State) (v : Byte) : (s.setB v).pc = s.pc := rfl
@[simp] theorem setB_bus (s : State) (v : Byte) : (s.setB v).bus = s.bus := rfl
@[simp] theorem setB_aluZero (s : State) (v : Byte) : (s.setB v).aluZero = s.aluZero := rfl
@[simp] theorem setB_aluCarry (s : State) (v : Byte) : (s.setB v).aluCarry = s.aluCarry := rfl
@[simp] theorem setB_aluSub (s : State) (v : Byte) : (s.setB v).aluSub = s.aluSub := rfl
@[simp] theorem setB_fs (s : State) (v : Byte) : (s.setB v).fs = s.fs := rfl
@[simp] theorem setB_halted (s : State) (v : Byte) : (s.setB v).halted = s.halted := rfl
@[simp] theorem setB_useq (s : State) (v : Byte) : (s.setB v).useq = s.useq := rfl
@[simp] theorem setB_outTrace (s : State) (v : Byte) : (s.setB v).outTrace = s.outTrace := rfl
@[simp] theorem setB_fsTrace (s : State) (v : Byte) : (s.setB v).fsTrace = s.fsTrace := rfl
@[simp] theorem setB_started (s : State) (v : Byte) : (s.setB v).started = s.started := rfl
@[simp] theorem setB_outcome (s : State) (v : Byte) : (s.setB v).outcome = s.outcome := rfl

@[simp] theorem setMar_mem (s : State) (v : Byte) : (s.setMar v).mem = s.mem := rfl
@[simp] theorem setMar_a (s : State) (v : Byte) : (s.setMar v).a = s.a := rfl
@[simp] theorem setMar_aWritten (s : State) (v : Byte) : (s.setMar v).aWritten = s.aWritten := rfl
@[simp] theorem setMar_b (s : State) (v : Byte) : (s.setMar v).b = s.b := rfl
@[simp] theorem setMar_mar (s : State) (v : Byte) : (s.setMar v).mar = v := rfl
@[simp] theorem setMar_ir (s : State) (v : Byte) : (s.setMar v).ir = s.ir := rfl
@[simp] theorem setMar_pc (s : State) (v : Byte) : (s.setMar v).pc = s.pc := rfl
@[simp] theorem setMar_bus (s : State) (v : Byte) : (s.setMar v).bus = s.bus := rfl
@[simp] theorem setMar_aluZero (s : State) (v : Byte) : (s.setMar v).aluZero = s.aluZero := rfl
@[simp] theorem setMar_aluCarry (s : State) (v : Byte) : (s.setMar v).aluCarry = s.aluCarry := rfl
@[simp] theorem setMar_aluSub (s : State) (v : Byte) : (s.setMar v).aluSub = s.aluSub := rfl
@[simp] theorem setMar_fs (s : State) (v : Byte) : (s.setMar v).fs = s.fs := rfl
@[simp] theorem setMar_halted (s : State) (v : Byte) : (s.setMar v).halted = s.halted := rfl
@[simp] theorem setMar_useq (s : State) (v : Byte) : (s.setMar v).useq = s.useq := rfl
@[simp] theorem setMar_outTrace (s : State) (v : Byte) : (s.setMar v).outTrace = s.outTrace := rfl
@[simp] theorem setMar_fsTrace (s : State) (v : Byte) : (s.setMar v).fsTrace = s.fsTrace := rfl
@[simp] theorem setMar_started (s : State) (v : Byte) : (s.setMar v).started = s.started := rfl
@[simp] theorem setMar_outcome (s : State) (v : Byte) : (s.setMar v).outcome = s.outcome := rfl

@[simp] theorem setIr_mem (s : State) (v : Byte) : (s.setIr v).mem = s.mem := rfl
@[simp] theorem setIr_a (s : State) (v : Byte) : (s.setIr v).a = s.a := rfl
@[simp] theorem setIr_aWritten (s : State) (v : Byte) : (s.setIr v).aWritten = s.aWritten := rfl
@[simp] theorem setIr_b (s : State) (v : Byte) : (s.setIr v).b = s.b := rfl
@[simp] theorem setIr_mar (s : State) (v : Byte) : (s.setIr v).mar = s.mar := rfl
@[simp] theorem setIr_ir (s : State) (v : Byte) : (s.setIr v).ir = v := rfl
@[simp] theorem setIr_pc (s : State) (v : Byte) : (s.setIr v).pc = s.pc := rfl
@[simp] theorem setIr_bus (s : State) (v : Byte) : (s.setIr v).bus = s.bus := rfl
@[simp] theorem setIr_aluZero (s : State) (v : Byte) : (s.setIr v).aluZero = s.aluZero := rfl
@[simp] theorem setIr_aluCarry (s : State) (v : Byte) : (s.setIr v).aluCarry = s.aluCarry := rfl
@[simp] theorem setIr_aluSub (s : State) (v : Byte) : (s.setIr v).aluSub = s.aluSub := rfl
@[simp] theorem setIr_fs (s : State) (v : Byte) : (s.setIr v).fs = s.fs := rfl
@[simp] theorem setIr_halted (s : State) (v : Byte) : (s.setIr v).halted = s.halted := rfl
@[simp] theorem setIr_useq (s : State) (v : Byte) : (s.setIr v).useq = s.useq := rfl
@[simp] theorem setIr_outTrace (s : State) (v : Byte) : (s.setIr v).outTrace = s.outTrace := rfl
@[simp] theorem setIr_fsTrace (s : State) (v : Byte) : (s.setIr v).fsTrace = s.fsTrace := rfl
@[simp] theorem setIr_started (s : State) (v : Byte) : (s.setIr v).started = s.started := rfl
@[simp] theorem setIr_outcome (s : State) (v : Byte) : (s.setIr v).outcome = s.outcome := rfl

@[simp] theorem setPc_mem (s : State) (v : Byte) : (s.setPc v).mem = s.mem := rfl
@[simp] theorem setPc_a (s : State) (v : Byte) : (s.setPc v).a = s.a := rfl
@[simp] theorem setPc_aWritten (s : State) (v : Byte) : (s.setPc v).aWritten = s.aWritten := rfl
@[simp] theorem setPc_b (s : State) (v : Byte) : (s.setPc v).b = s.b := rfl
@[simp] theorem setPc_mar (s : State) (v : Byte) : (s.setPc v).mar = s.mar := rfl
@[simp] theorem setPc_ir (s : State) (v : Byte) : (s.setPc v).ir = s.ir := rfl
@[simp] theorem setPc_pc (s : State) (v : Byte) : (s.setPc v).pc = v := rfl
@[simp] theorem setPc_bus (s : State) (v : Byte) : (s.setPc v).bus = s.bus := rfl
@[simp] theorem setPc_aluZero (s : State) (v : Byte) : (s.setPc v).aluZero = s.aluZero := rfl
@[simp] theorem setPc_aluCarry (s : State) (v : Byte) : (s.setPc v).aluCarry = s.aluCarry := rfl
@[simp] theorem setPc_aluSub (s : State) (v : Byte) : (s.setPc v).aluSub = s.aluSub := rfl
@[simp] theorem setPc_fs (s : State) (v : Byte) : (s.setPc v).fs = s.fs := rfl
@[simp] theorem setPc_halted (s : State) (v : Byte) : (s.setPc v).halted = s.halted := rfl
@[simp] theorem setPc_useq (s : State) (v : Byte) : (s.setPc v).useq = s.useq := rfl
@[simp] theorem setPc_outTrace (s : State) (v : Byte) : (s.setPc v).outTrace = s.outTrace := rfl
@[simp] theorem setPc_fsTrace (s : State) (v : Byte) : (s.setPc v).fsTrace = s.fsTrace := rfl
@[simp] theorem setPc_started (s : State) (v : Byte) : (s.setPc v).started = s.started := rfl
@[simp] theorem setPc_outcome (s : State) (v : Byte) : (s.setPc v).outcome = s.outcome := rfl

@[simp] theorem setBus_mem (s : State) (v : Byte) : (s.setBus v).mem = s.mem := rfl
@[simp] theorem setBus_a (s : State) (v : Byte) : (s.setBus v).a = s.a := rfl
@[simp] theorem setBus_aWritten (s : State) (v : Byte) : (s.setBus v).aWritten = s.aWritten := rfl
@[simp] theorem setBus_b (s : State) (v : Byte) : (s.setBus v).b = s.b := rfl
@[simp] theorem setBus_mar (s : State) (v : Byte) : (s.setBus v).mar = s.mar := rfl
@[simp] theorem setBus_ir (s : State) (v : Byte) : (s.setBus v).ir = s.ir := rfl
@[simp] theorem setBus_pc (s : State) (v : Byte) : (s.setBus v).pc = s.pc := rfl
@[simp] theorem setBus_bus (s : State) (v : Byte) : (s.setBus v).bus = v := rfl
@[simp] theorem setBus_aluZero (s : State) (v : Byte) : (s.setBus v).aluZero = s.aluZero := rfl
@[simp] theorem setBus_aluCarry (s : State) (v : Byte) : (s.setBus v).aluCarry = s.aluCarry := rfl
@[simp] theorem setBus_aluSub (s : State) (v : Byte) : (s.setBus v).aluSub = s.aluSub := rfl
@[simp] theorem setBus_fs (s : State) (v : Byte) : (s.setBus v).fs = s.fs := rfl
@[simp] theorem setBus_halted (s : State) (v : Byte) : (s.setBus v).halted = s.halted := rfl
@[simp] theorem setBus_useq (s : State) (v : Byte) : (s.setBus v).useq = s.useq := rfl
@[simp] theorem setBus_outTrace (s : State) (v : Byte) : (s.setBus v).outTrace = s.outTrace := rfl
@[simp] theorem setBus_fsTrace (s : State) (v : Byte) : (s.setBus v).fsTrace = s.fsTrace := rfl
@[simp] theorem setBus_started (s : State) (v : Byte) : (s.setBus v).started = s.started := rfl
@[simp] theorem setBus_outcome (s : State) (v : Byte) : (s.setBus v).outcome = s.outcome := rfl

@[simp] theorem setAluFlags_mem (s : State) (z c : Bool) : (s.setAluFlags z c).mem = s.mem := rfl
@[simp] theorem setAluFlags_a (s : State) (z c : Bool) : (s.setAluFlags z c).a = s.a := rfl
@[simp] theorem setAluFlags_aWritten (s : State) (z c : Bool) : (s.setAluFlags z c).aWritten = s.aWritten := rfl
@[simp] theorem setAluFlags_b (s : State) (z c : Bool) : (s.setAluFlags z c).b = s.b := rfl
@[simp] theorem setAluFlags_mar (s : State) (z c : Bool) : (s.setAluFlags z c).mar = s.mar := rfl
@[simp] theorem setAluFlags_ir (s : State) (z c : Bool) : (s.setAluFlags z c).ir = s.ir := rfl
@[simp] theorem setAluFlags_pc (s : State) (z c : Bool) : (s.setAluFlags z c).pc = s.pc := rfl
@[simp] theorem setAluFlags_bus (s : State) (z c : Bool) : (s.setAluFlags z c).bus = s.bus := rfl
@[simp] theorem setAluFlags_aluZero (s : State) (z c : Bool) : (s.setAluFlags z c).aluZero = z := rfl
@[simp] theorem setAluFlags_aluCarry (s : State) (z c : Bool) : (s.setAluFlags z c).aluCarry = c := rfl
@[simp] theorem setAluFlags_aluSub (s : State) (z c : Bool) : (s.setAluFlags z c).aluSub = s.aluSub := rfl
@[simp] theorem setAluFlags_fs (s : State) (z c : Bool) : (s.setAluFlags z c).fs = s.fs := rfl
@[simp] theorem setAluFlags_halted (s : State) (z c : Bool) : (s.setAluFlags z c).halted = s.halted := rfl
@[simp] theorem setAluFlags_useq (s : State) (z c : Bool) : (s.setAluFlags z c).useq = s.useq := rfl
@[simp] theorem setAluFlags_outTrace (s : State) (z c : Bool) : (s.setAluFlags z c).outTrace = s.outTrace := rfl
@[simp] theorem setAluFlags_fsTrace (s : State) (z c : Bool) : (s.setAluFlags z c).fsTrace = s.fsTrace := rfl
@[simp] theorem setAluFlags_started (s : State) (z c : Bool) : (s.setAluFlags z c).started = s.started := rfl
@[simp] theorem setAluFlags_outcome (s : State) (z c : Bool) : (s.setAluFlags z c).outcome = s.outcome := rfl

@[simp] theorem setAluSub_mem (s : State) (b : Bool) : (s.setAluSub b).mem = s.mem := rfl
@[simp] theorem setAluSub_a (s : State) (b : Bool) : (s.setAluSub b).a = s.a := rfl
@[simp] theorem setAluSub_aWritten (s : State) (b : Bool) : (s.setAluSub b).aWritten = s.aWritten := rfl
@[simp] theorem setAluSub_b (s : State) (b : Bool) : (s.setAluSub b).b = s.b := rfl
@[simp] theorem setAluSub_mar (s : State) (b : Bool) : (s.setAluSub b).mar = s.mar := rfl
@[simp] theorem setAluSub_ir (s : State) (b : Bool) : (s.setAluSub b).ir = s.ir := rfl
@[simp] theorem setAluSub_pc (s : State) (b : Bool) : (s.setAluSub b).pc = s.pc := rfl
@[simp] theorem setAluSub_bus (s : State) (b : Bool) : (s.setAluSub b).bus = s.bus := rfl
@[simp] theorem setAluSub_aluZero (s : State) (b : Bool) : (s.setAluSub b).aluZero = s.aluZero := rfl
@[simp] theorem setAluSub_aluCarry (s : State) (b : Bool) : (s.setAluSub b).aluCarry = s.aluCarry := rfl
@[simp] theorem setAluSub_aluSub (s : State) (b : Bool) : (s.setAluSub b).aluSub = b := rfl
@[simp] theorem setAluSub_fs (s : State) (b : Bool) : (s.setAluSub b).fs = s.fs := rfl
@[simp] theorem setAluSub_halted (s : State) (b : Bool) : (s.setAluSub b).halted = s.halted := rfl
@[simp] theorem setAluSub_useq (s : State) (b : Bool) : (s.setAluSub b).useq = s.useq := rfl
@[simp] theorem setAluSub_outTrace (s : State) (b : Bool) : (s.setAluSub b).outTrace = s.outTrace := rfl
@[simp] theorem setAluSub_fsTrace (s : State) (b : Bool) : (s.setAluSub b).fsTrace = s.fsTrace := rfl
@[simp] theorem setAluSub_started (s : State) (b : Bool) : (s.setAluSub b).started = s.started := rfl
@[simp] theorem setAluSub_outcome (s : State) (b : Bool) : (s.setAluSub b).outcome = s.outcome := rfl

@[simp] theorem pushFlags_mem (s : State) (f : FlagPair) : (s.pushFlags f).mem = s.mem := rfl
@[simp] theorem pushFlags_a (s : State) (f : FlagPair) : (s.pushFlags f).a = s.a := rfl
@[simp] theorem pushFlags_aWritten (s : State) (f : FlagPair) : (s.pushFlags f).aWritten = s.aWritten := rfl
@[simp] theorem pushFlags_b (s : State) (f : FlagPair) : (s.pushFlags f).b = s.b := rfl
@[simp] theorem pushFlags_mar (s : State) (f : FlagPair) : (s.pushFlags f).mar = s.mar := rfl
@[simp] theorem pushFlags_ir (s : State) (f : FlagPair) : (s.pushFlags f).ir = s.ir := rfl
@[simp] theorem pushFlags_pc (s : State) (f : FlagPair) : (s.pushFlags f).pc = s.pc := rfl
@[simp] theorem pushFlags_bus (s : State) (f : FlagPair) : (s.pushFlags f).bus = s.bus := rfl
@[simp] theorem pushFlags_aluZero (s : State) (f : FlagPair) : (s.pushFlags f).aluZero = s.aluZero := rfl
@[simp] theorem pushFlags_aluCarry (s : State) (f : FlagPair) : (s.pushFlags f).aluCarry = s.aluCarry := rfl
@[simp] theorem pushFlags_aluSub (s : State) (f : FlagPair) : (s.pushFlags f).aluSub = s.aluSub := rfl
@[simp] theorem pushFlags_fs (s : State) (f : FlagPair) : (s.pushFlags f).fs = some f := rfl
@[simp] theorem pushFlags_halted (s : State) (f : FlagPair) : (s.pushFlags f).halted = s.halted := rfl
@[simp] theorem pushFlags_useq (s : State) (f : FlagPair) : (s.pushFlags f).useq = s.useq := rfl
@[simp] theorem pushFlags_outTrace (s : State) (f : FlagPair) : (s.pushFlags f).outTrace = s.outTrace := rfl
@[simp] theorem pushFlags_fsTrace (s : State) (f : FlagPair) : (s.pushFlags f).fsTrace = s.fsTrace ++ [f] := rfl
@[simp] theorem pushFlags_started (s : State) (f : FlagPair) : (s.pushFlags f).started = s.started := rfl
@[simp] theorem pushFlags_outcome (s : State) (f : FlagPair) : (s.pushFlags f).outcome = s.outcome := rfl

@[simp] theorem pushOut_mem (s : State) (v : Byte) : (s.pushOut v).mem = s.mem := rfl
@[simp] theorem pushOut_a (s : State) (v : Byte) : (s.pushOut v).a = s.a := rfl
@[simp] theorem pushOut_aWritten (s : State) (v : Byte) : (s.pushOut v).aWritten = s.aWritten := rfl
@[simp] theorem pushOut_b (s : State) (v : Byte) : (s.pushOut v).b = s.b := rfl
@[simp] theorem pushOut_mar (s : State) (v : Byte) : (s.pushOut v).mar = s.mar := rfl
@[simp] theorem pushOut_ir (s : State) (v : Byte) : (s.pushOut v).ir = s.ir := rfl
@[simp] theorem pushOut_pc (s : State) (v : Byte) : (s.pushOut v).pc = s.pc := rfl
@[simp] theorem pushOut_bus (s : State) (v : Byte) : (s.pushOut v).bus = s.bus := rfl
@[simp] theorem pushOut_aluZero (s : State) (v : Byte) : (s.pushOut v).aluZero = s.aluZero := rfl
@[simp] theorem pushOut_aluCarry (s : State) (v : Byte) : (s.pushOut v).aluCarry = s.aluCarry := rfl
@[simp] theorem pushOut_aluSub (s : State) (v : Byte) : (s.pushOut v).aluSub = s.aluSub := rfl
@[simp] theorem pushOut_fs (s : State) (v : Byte) : (s.pushOut v).fs = s.fs := rfl
@[simp] theorem pushOut_halted (s : State) (v : Byte) : (s.pushOut v).halted = s.halted := rfl
@[simp] theorem pushOut_useq (s : State) (v : Byte) : (s.pushOut v).useq = s.useq := rfl
@[simp] theorem pushOut_outTrace (s : State) (v : Byte) : (s.pushOut v).outTrace = s.outTrace ++ [v] := rfl
@[simp] theorem pushOut_fsTrace (s : State) (v : Byte) : (s.pushOut v).fsTrace = s.fsTrace := rfl
@[simp] theorem pushOut_started (s : State) (v : Byte) : (s.pushOut v).started = s.started := rfl
@[simp] theorem pushOut_outcome (s : State) (v : Byte) : (s.pushOut v).outcome = s.outcome := rfl

@[simp] theorem setHalted_mem (s : State) (h : Bool) : (s.setHalted h).mem = s.mem := rfl
@[simp] theorem setHalted_a (s : State) (h : Bool) : (s.setHalted h).a = s.a := rfl
@[simp] theorem setHalted_aWritten (s : State) (h : Bool) : (s.setHalted h).aWritten = s.aWritten := rfl
@[simp] theorem setHalted_b (s : State) (h : Bool) : (s.setHalted h).b = s.b := rfl
@[simp] theorem setHalted_mar (s : State) (h : Bool) : (s.setHalted h).mar = s.mar := rfl
@[simp] theorem setHalted_ir (s : State) (h : Bool) : (s.setHalted h).ir = s.ir := rfl
@[simp] theorem setHalted_pc (s : State) (h : Bool) : (s.setHalted h).pc = s.pc := rfl
@[simp] theorem setHalted_bus (s : State) (h : Bool) : (s.setHalted h).bus = s.bus := rfl
@[simp] theorem setHalted_aluZero (s : State) (h : Bool) : (s.setHalted h).aluZero = s.aluZero := rfl
@[simp] theorem setHalted_aluCarry (s : State) (h : Bool) : (s.setHalted h).aluCarry = s.aluCarry := rfl
@[simp] theorem setHalted_aluSub (s : State) (h : Bool) : (s.setHalted h).aluSub = s.aluSub := rfl
@[simp] theorem setHalted_fs (s : State) (h : Bool) : (s.setHalted h).fs = s.fs := rfl
@[simp] theorem setHalted_halted (s : State) (h : Bool) : (s.setHalted h).halted = h := rfl
@[simp] theorem setHalted_useq (s : State) (h : Bool) : (s.setHalted h).useq = s.useq := rfl
@[simp] theorem setHalted_outTrace (s : State) (h : Bool) : (s.setHalted h).outTrace = s.outTrace := rfl
@[simp] theorem setHalted_fsTrace (s : State) (h : Bool) : (s.setHalted h).fsTrace = s.fsTrace := rfl
@[simp] theorem setHalted_started (s : State) (h : Bool) : (s.setHalted h).started = s.started := rfl
@[simp] theorem setHalted_outcome (s : State) (h : Bool) : (s.setHalted h).outcome = s.outcome := rfl

@[simp] theorem setUseq_mem (s : State) (u : USeq) : (s.setUseq u).mem = s.mem := rfl
@[simp] theorem setUseq_a (s : State) (u : USeq) : (s.setUseq u).a = s.a := rfl
@[simp] theorem setUseq_aWritten (s : State) (u : USeq) : (s.setUseq u).aWritten = s.aWritten := rfl
@[simp] theorem setUseq_b (s : State) (u : USeq) : (s.setUseq u).b = s.b := rfl
@[simp] theorem setUseq_mar (s : State) (u : USeq) : (s.setUseq u).mar = s.mar := rfl
@[simp] theorem setUseq_ir (s : State) (u : USeq) : (s.setUseq u).ir = s.ir := rfl
@[simp] theorem setUseq_pc (s : State) (u : USeq) : (s.setUseq u).pc = s.pc := rfl
@[simp] theorem setUseq_bus (s : State) (u : USeq) : (s.setUseq u).bus = s.bus := rfl
@[simp] theorem setUseq_aluZero (s : State) (u : USeq) : (s.setUseq u).aluZero = s.aluZero := rfl
@[simp] theorem setUseq_aluCarry (s : State) (u : USeq) : (s.setUseq u).aluCarry = s.aluCarry := rfl
@[simp] theorem setUseq_aluSub (s : State) (u : USeq) : (s.setUseq u).aluSub = s.aluSub := rfl
@[simp] theorem setUseq_fs (s : State) (u : USeq) : (s.setUseq u).fs = s.fs := rfl
@[simp] theorem setUseq_halted (s : State) (u : USeq) : (s.setUseq u).halted = s.halted := rfl
@[simp] theorem setUseq_useq (s : State) (u : USeq) : (s.setUseq u).useq = u := rfl
@[simp] theorem setUseq_outTrace (s : State) (u : USeq) : (s.setUseq u).outTrace = s.outTrace := rfl
@[simp] theorem setUseq_fsTrace (s : State) (u : USeq) : (s.setUseq u).fsTrace = s.fsTrace := rfl
@[simp] theorem setUseq_started (s : State) (u : USeq) : (s.setUseq u).started = s.started := rfl
@[simp] theorem setUseq_outcome (s : State) (u : USeq) : (s.setUseq u).outcome = s.outcome := rfl

@[simp] theorem setStarted_mem (s : State) (b : Bool) : (s.setStarted b).mem = s.mem := rfl
@[simp] theorem setStarted_a (s : State) (b : Bool) : (s.setStarted b).a = s.a := rfl
@[simp] theorem setStarted_aWritten (s : State) (b : Bool) : (s.setStarted b).aWritten = s.aWritten := rfl
@[simp] theorem setStarted_b (s : State) (b : Bool) : (s.setStarted b).b = s.b := rfl
@[simp] theorem setStarted_mar (s : State) (b : Bool) : (s.setStarted b).mar = s.mar := rfl
@[simp] theorem setStarted_ir (s : State) (b : Bool) : (s.setStarted b).ir = s.ir := rfl
@[simp] theorem setStarted_pc (s : State) (b : Bool) : (s.setStarted b).pc = s.pc := rfl
@[simp] theorem setStarted_bus (s : State) (b : Bool) : (s.setStarted b).bus = s.bus := rfl
@[simp] theorem setStarted_aluZero (s : State) (b : Bool) : (s.setStarted b).aluZero = s.aluZero := rfl
@[simp] theorem setStarted_aluCarry (s : State) (b : Bool) : (s.setStarted b).aluCarry = s.aluCarry := rfl
@[simp] theorem setStarted_aluSub (s : State) (b : Bool) : (s.setStarted b).aluSub = s.aluSub := rfl
@[simp] theorem setStarted_fs (s : State) (b : Bool) : (s.setStarted b).fs = s.fs := rfl
@[simp] theorem setStarted_halted (s : State) (b : Bool) : (s.setStarted b).halted = s.halted := rfl
@[simp] theorem setStarted_useq (s : State) (b : Bool) : (s.setStarted b).useq = s.useq := rfl
@[simp] theorem setStarted_outTrace (s : State) (b : Bool) : (s.setStarted b).outTrace = s.outTrace := rfl
@[simp] theorem setStarted_fsTrace (s : State) (b : Bool) : (s.setStarted b).fsTrace = s.fsTrace := rfl
@[simp] theorem setStarted_started (s : State) (b : Bool) : (s.setStarted b).started = b := rfl
@[simp] theorem setStarted_outcome (s : State) (b : Bool) : (s.setStarted b).outcome = s.outcome := rfl

@[simp] theorem setOutcome_mem (s : State) (o : RunOutcome) : (s.setOutcome o).mem = s.mem := rfl
@[simp] theorem setOutcome_a (s : State) (o : RunOutcome) : (s.setOutcome o).a = s.a := rfl
@[simp] theorem setOutcome_aWritten (s : State) (o : RunOutcome) : (s.setOutcome o).aWritten = s.aWritten := rfl
@[simp] theorem setOutcome_b (s : State) (o : RunOutcome) : (s.setOutcome o).b = s.b := rfl
@[simp] theorem setOutcome_mar (s : State) (o : RunOutcome) : (s.setOutcome o).mar = s.mar := rfl
@[simp] theorem setOutcome_ir (s : State) (o : RunOutcome) : (s.setOutcome o).ir = s.ir := rfl
@[simp] theorem setOutcome_pc (s : State) (o : RunOutcome) : (s.setOutcome o).pc = s.pc := rfl
@[simp] theorem setOutcome_bus (s : State) (o : RunOutcome) : (s.setOutcome o).bus = s.bus := rfl
@[simp] theorem setOutcome_aluZero (s : State) (o : RunOutcome) : (s.setOutcome o).aluZero = s.aluZero := rfl
@[simp] theorem setOutcome_aluCarry (s : State) (o : RunOutcome) : (s.setOutcome o).aluCarry = s.aluCarry := rfl
@[simp] theorem setOutcome_aluSub (s : State) (o : RunOutcome) : (s.setOutcome o).aluSub = s.aluSub := rfl
@[simp] theorem setOutcome_fs (s : State) (o : RunOutcome) : (s.setOutcome o).fs = s.fs := rfl
@[simp] theorem setOutcome_halted (s : State) (o : RunOutcome) : (s.setOutcome o).halted = s.halted := rfl
@[simp] theorem setOutcome_useq (s : State) (o : RunOutcome) : (s.setOutcome o).useq = s.useq := rfl
@[simp] theorem setOutcome_outTrace (s : State) (o : RunOutcome) : (s.setOutcome o).outTrace = s.outTrace := rfl
@[simp] theorem setOutcome_fsTrace (s : State) (o : RunOutcome) : (s.setOutcome o).fsTrace = s.fsTrace := rfl
@[simp] theorem setOutcome_started (s : State) (o : RunOutcome) : (s.setOutcome o).started = s.started := rfl
@[simp] theorem setOutcome_outcome (s : State) (o : RunOutcome) : (s.setOutcome o).outcome = o := rfl

end Sys2Proof.Machine.State
end

