-- ==== Sys2Proof/Laws/Ops.lean ====
section
/-! SUPPORT. One lemma per shared operation, saying all it does in terms of the setters of State. -/

namespace Sys2Proof.Machine

@[simp] theorem memRead_eq (s : State) : memRead s = Memory.read s.mem (cellOf s.mar) := rfl

@[simp] theorem memWrite_eq (v : Byte) (s : State) :
    memWrite v s = s.setMem (Memory.write s.mem (cellOf s.mar) v) := rfl

@[simp] theorem busWrite_eq (v : Byte) (s : State) : busWrite v s = s.setBus v := rfl

@[simp] theorem busRead_eq (s : State) : busRead s = s.bus := rfl

@[simp] theorem busReadReset_eq (s : State) : busReadReset s = (s.bus, s.setBus 0) := rfl

@[simp] theorem pcAdvance_eq (s : State) : pcAdvance s = s.setPc (BitVec.ofNat 8 ((s.pc.toNat + 1) % 16)) := rfl

@[simp] theorem pcSet_eq (v : Byte) (s : State) : pcSet v s = s.setPc (pcOf v) := rfl

@[simp] theorem pcToBus_eq (s : State) : pcToBus s = s.setBus s.pc := rfl

@[simp] theorem operandToBus_eq (n : Nibble) (s : State) : operandToBus n s = s.setBus (zext8 n) := rfl

@[simp] theorem aToBus_eq (s : State) : aToBus s = s.setBus s.a := rfl

@[simp] theorem memToBus_eq (s : State) : memToBus s = s.setBus (Memory.read s.mem (cellOf s.mar)) := rfl

@[simp] theorem aluToBus_eq (s : State) :
    aluToBus s = (s.setAluFlags (getResult s.aluSub s.a s.b).zero (getResult s.aluSub s.a s.b).carry).setBus
      (getResult s.aluSub s.a s.b).value := rfl

@[simp] theorem busToMar_eq (s : State) : busToMar s = (s.setBus 0).setMar s.bus := rfl

@[simp] theorem busToIr_eq (s : State) : busToIr s = (s.setBus 0).setIr s.bus := rfl

@[simp] theorem busToA_eq (s : State) : busToA s = (s.setBus 0).setA s.bus := rfl

@[simp] theorem busToB_eq (s : State) : busToB s = s.setB s.bus := rfl

@[simp] theorem busToMem_eq (s : State) :
    busToMem s = s.setMem (Memory.write s.mem (cellOf s.mar) s.bus) := rfl

@[simp] theorem busToPc_eq (s : State) : busToPc s = s.setPc (pcOf s.bus) := rfl

@[simp] theorem busToOut_eq (s : State) : busToOut s = s.pushOut s.bus := rfl

@[simp] theorem storeFlags_eq (s : State) : storeFlags s = s.pushFlags ⟨s.aluZero, s.aluCarry⟩ := rfl

@[simp] theorem setSubtract_eq (s : State) : setSubtract s = s.setAluSub true := rfl

@[simp] theorem resetSubtract_eq (s : State) : resetSubtract s = s.setAluSub false := rfl

@[simp] theorem halt_eq (s : State) : halt s = s.setHalted true := rfl

@[simp] theorem retire_eq (s : State) : retire s = s.setUseq (if s.halted then .halted else .fetch1) := rfl

@[simp] theorem retireEmpty_eq (s : State) : retireEmpty s = s.setUseq .fetch1 := rfl

@[simp] theorem andThen_next (s : State) (f : State → Host.Outcome State Fault Refusal) :
    andThen (.next s) f = f s := rfl

@[simp] theorem andThen_fault (r : Fault) (f : State → Host.Outcome State Fault Refusal) :
    andThen (.fault r) f = .fault r := rfl

@[simp] theorem andThen_refused (r : Refusal) (f : State → Host.Outcome State Fault Refusal) :
    andThen (.refused r) f = .refused r := rfl

/-- What a sequence that ends in a next state went through. -/
theorem andThen_eq_next {o : Host.Outcome State Fault Refusal} {f : State → Host.Outcome State Fault Refusal}
    {t : State} : andThen o f = .next t ↔ ∃ s, o = .next s ∧ f s = .next t := by
  cases o <;> simp

/-- The address a store of STA n goes to, and the byte: MAR is the operand, and the bus holds A. -/
theorem addressOperand_mar (n : Nibble) (s : State) : (busToMar (operandToBus n s)).mar = zext8 n := rfl

end Sys2Proof.Machine
end

