-- ==== Sys2Proof/Laws/MicroOps.lean ====
section
/-! SUPPORT. What the operations that may stop can answer, each once. -/

namespace Sys2Proof.Machine

/-- A transition that reads A answers a next state exactly where A is readable. -/
@[simp] theorem readingA_eq_next {p : Config.Params} {f : State → State} {s t : State} :
    readingA p f s = .next t ↔ aUnwritten p s = false ∧ f s = t := by
  unfold readingA
  cases aUnwritten p s <;> simp

/-- The conditional jump answers a next state exactly where the flag store is written; PC is then the low nibble of
the bus where the flag is true, and nothing changes where it is false. -/
@[simp] theorem jumpIf_eq_next {flag : FlagPair → Bool} {s t : State} :
    jumpIf flag s = .next t ↔
      ∃ f, s.fs = some f ∧ (if flag f then s.setPc (pcOf s.bus) else s) = t := by
  unfold jumpIf
  cases s.fs with
  | none => simp
  | some f => simp

/-- A checked word that answers a next state has a single writer. -/
theorem checkedWord_eq_next {cw : ControlWord} {o : Host.Outcome State Fault Refusal} {t : State} :
    checkedWord cw o = .next t ↔ ControlWord.singleWriter cw = true ∧ o = .next t := by
  unfold checkedWord
  cases ControlWord.singleWriter cw <;> simp

/-- A state without a recorded stop is where `unlessStopped` runs its transition. -/
theorem unlessStopped_none {f : State → Host.Outcome State Fault Refusal} {s : State} (h : s.outcome = .none) :
    unlessStopped f s = f s := by
  simp [unlessStopped, h]

/-- A next state was answered only where no stop is recorded. -/
theorem unlessStopped_eq_next {f : State → Host.Outcome State Fault Refusal} {s t : State} :
    unlessStopped f s = .next t ↔ s.outcome = .none ∧ f s = .next t := by
  unfold unlessStopped
  cases s.outcome <;> simp

/-- No micro-operation refuses. -/
theorem applyMicroOp_ne_refused (p : Config.Params) (m : MicroOp) (s : State) (r : Refusal) :
    applyMicroOp p m s ≠ .refused r := by
  cases m <;> simp only [applyMicroOp, readingA, jumpIf] <;> (try split) <;> nofun

end Sys2Proof.Machine
end

