-- ==== Sys2Proof/Laws/PerInstr.lean ====
section
/-! SUPPORT. The families of statements made per instruction (LAWS.json), one lemma per constructor. -/

namespace Sys2Proof.Laws.EncodedFields

/-- The two fields of an instruction's byte: its row's opcode in bits 7..4 and its operand in bits 3..0 (rules R71,
R75). -/
def Statement (i : Instr) : Prop :=
  opcodeBits (encode i) = i.opcode ∧ operandBits (encode i) = i.operand ∧
    (encode i).toNat = 16 * i.opcode.toNat + i.operand.toNat

theorem of_fields (i : Instr) : Statement i :=
  ⟨opcodeBits_encode i, operandBits_encode i, instrByte_toNat i.opcode i.operand⟩

theorem nop (x : Nibble) : Statement (.nop x) := of_fields _
theorem lda (n : Nibble) : Statement (.lda n) := of_fields _
theorem add (n : Nibble) : Statement (.add n) := of_fields _
theorem sub (n : Nibble) : Statement (.sub n) := of_fields _
theorem sta (n : Nibble) : Statement (.sta n) := of_fields _
theorem ldi (n : Nibble) : Statement (.ldi n) := of_fields _
theorem jmp (n : Nibble) : Statement (.jmp n) := of_fields _
theorem rsv7 (x : Nibble) : Statement (.rsv7 x) := of_fields _
theorem rsv8 (x : Nibble) : Statement (.rsv8 x) := of_fields _
theorem rsv9 (x : Nibble) : Statement (.rsv9 x) := of_fields _
theorem rsvA (x : Nibble) : Statement (.rsvA x) := of_fields _
theorem rsvB (x : Nibble) : Statement (.rsvB x) := of_fields _
theorem rsvC (x : Nibble) : Statement (.rsvC x) := of_fields _
theorem rsvD (x : Nibble) : Statement (.rsvD x) := of_fields _
theorem out (x : Nibble) : Statement (.out x) := of_fields _
theorem hlt (x : Nibble) : Statement (.hlt x) := of_fields _

end Sys2Proof.Laws.EncodedFields
end

