-- ==== Sys2Proof/Laws/Rom.lean ====
section
/-! SUPPORT. The ROM read backwards: which entries there are, and which control words. -/

namespace Sys2Proof.Machine

/-- The entry of an opcode is empty, or is the one the table gives that opcode (rules R141, R148). -/
theorem rom_cases (p : Config.Params) (op : Nibble) :
    rom p op = [] ∨
    op = 1 ∧ rom p op = [[.irDataToBus, .busToMar], [.memToBus, .busToA]] ∨
    op = 2 ∧ rom p op = [[.irDataToBus, .busToMar], [.memToBus, .busToB], [.aluToBus, .busToA, .storeFlags]] ∨
    op = 3 ∧ rom p op = [[.irDataToBus, .busToMar], [.memToBus, .busToB],
      [.setSubtract, .aluToBus, .busToA, .storeFlags, .resetSubtract]] ∨
    op = 4 ∧ rom p op = [[.irDataToBus, .busToMar], [.aToBus, .busToMem]] ∨
    op = 5 ∧ rom p op = [[.irDataToBus, .busToA]] ∨
    op = 6 ∧ rom p op = [[.irDataToBus, .busToPc]] ∨
    op = 7 ∧ p.extCondJump = true ∧ rom p op = [[.irDataToBus, .busToPcIfCarry]] ∨
    op = 8 ∧ p.extCondJump = true ∧ rom p op = [[.irDataToBus, .busToPcIfZero]] ∨
    op = 14 ∧ rom p op = [[.busToOut]] ∨
    op = 15 ∧ rom p op = [[.halt]] := by
  rcases nibble_cases op with h | h | h | h | h | h | h | h | h | h | h | h | h | h | h | h <;> subst h <;>
    cases he : p.extCondJump <;> simp [rom, he]

/-- Every control word of the ROM, under any choice of the parameters. -/
def romWords : List ControlWord :=
  [[.irDataToBus, .busToMar], [.memToBus, .busToA], [.memToBus, .busToB], [.aluToBus, .busToA, .storeFlags],
    [.setSubtract, .aluToBus, .busToA, .storeFlags, .resetSubtract], [.aToBus, .busToMem], [.irDataToBus, .busToA],
    [.irDataToBus, .busToPc], [.irDataToBus, .busToPcIfCarry], [.irDataToBus, .busToPcIfZero], [.busToOut], [.halt]]

theorem mem_romWords {p : Config.Params} {op : Nibble} {cw : ControlWord} (h : cw ∈ rom p op) : cw ∈ romWords := by
  revert h
  rcases rom_cases p op with e | ⟨-, e⟩ | ⟨-, e⟩ | ⟨-, e⟩ | ⟨-, e⟩ | ⟨-, e⟩ | ⟨-, e⟩ | ⟨-, -, e⟩ | ⟨-, -, e⟩ | ⟨-, e⟩ |
    ⟨-, e⟩ <;> rw [e] <;> simp +contextual [romWords, or_imp]

end Sys2Proof.Machine
end

