-- ==== Sys2Proof/Laws/Sequencer.lean ====
section
/-! SUPPORT. What one tick does in each sequencer state, each once, and the inversion of a tick that answers a next
state. -/

namespace Sys2Proof.Machine

/-- Every control word of the ROM has a single writer, so the check on it passes. -/
theorem checkedWord_rom {p : Config.Params} {op : Nibble} {k : Nat} {cw : ControlWord}
    (o : Host.Outcome State Fault Refusal) (h : (rom p op)[k]? = some cw) : checkedWord cw o = o := by
  have hall : ∀ cw, cw ∈ romWords → ControlWord.singleWriter cw = true := by decide
  rw [checkedWord, if_pos (hall cw (mem_romWords (List.mem_of_getElem? h)))]

/-- What FETCH1 and its two micro-operations leave (rule R161). -/
def afterFetch1 (s : State) : State := { s with mar := s.pc, bus := 0, useq := .fetch2, started := true }

/-- What FETCH2 and its three micro-operations leave (rule R162). -/
def afterFetch2 (s : State) : State :=
  { s with
    ir := Memory.read s.mem (cellOf s.mar), pc := BitVec.ofNat 8 ((s.pc.toNat + 1) % 16), bus := 0, useq := .decode,
    started := true }

/-- What the whole fetch leaves (rules R161, R162, R171). -/
def afterFetch (s : State) : State :=
  { s with
    mar := s.pc, ir := Memory.read s.mem (cellOf s.pc), pc := BitVec.ofNat 8 ((s.pc.toNat + 1) % 16), bus := 0,
    useq := .decode, started := true }

theorem afterFetch2_afterFetch1 (s : State) : afterFetch2 (afterFetch1 s) = afterFetch s := by
  simp only [afterFetch2, afterFetch1, afterFetch]

theorem tickFetch1_eq (p : Config.Params) (s : State) :
    tickFetch1 p (s.setStarted true) = .next (afterFetch1 s) := rfl

theorem tickFetch2_eq (p : Config.Params) (s : State) :
    tickFetch2 p (s.setStarted true) = .next (afterFetch2 s) := rfl

theorem tick_fetch1 {p : Config.Params} {s : State} (ho : s.outcome = .none) (hu : s.useq = .fetch1) :
    tick p s = .next (afterFetch1 s) := by
  rw [tick, unlessStopped_none ho, tickRunning, hu]
  exact tickFetch1_eq p s

theorem tick_fetch2 {p : Config.Params} {s : State} (ho : s.outcome = .none) (hu : s.useq = .fetch2) :
    tick p s = .next (afterFetch2 s) := by
  rw [tick, unlessStopped_none ho, tickRunning, hu]
  exact tickFetch2_eq p s

theorem tick_decode {p : Config.Params} {s : State} (ho : s.outcome = .none) (hu : s.useq = .decode) :
    tick p s = tickDecode p (s.setStarted true) := by
  rw [tick, unlessStopped_none ho, tickRunning, hu]

/-- A tick of EXECUTE(k, o) applies the micro-operation (k, o) of IR's entry and moves on (rule R164). -/
theorem tick_execute {p : Config.Params} {s : State} {k o : Nat} {cw : ControlWord} {m : MicroOp}
    (ho : s.outcome = .none) (hu : s.useq = .execute k o) (hw : (rom p (opcodeBits s.ir))[k]? = some cw)
    (hm : cw[o]? = some m) :
    tick p s = andThen (applyMicroOp p m (s.setStarted true)) fun t =>
      .next (t.setUseq (nextUseq (rom p (opcodeBits s.ir)) cw k o t.halted)) := by
  rw [tick, unlessStopped_none ho, tickRunning, hu]
  simp only [tickExecute, State.setStarted_ir, hw, hm]
  rw [checkedWord_rom _ hw]

theorem tick_halted {p : Config.Params} {s : State} (ho : s.outcome = .none) (hu : s.useq = .halted) :
    tick p s = .next s := by
  rw [tick, unlessStopped_none ho, tickRunning, hu]

/-- What a tick that answers a next state went through: the fetch, an entry found at DECODE, one micro-operation of
EXECUTE, or nothing at all. -/
theorem tick_next_cases {p : Config.Params} {s t : State} (h : tick p s = .next t) :
    s.outcome = .none ∧
    (s.useq = .fetch1 ∧ t = afterFetch1 s ∨
     s.useq = .fetch2 ∧ t = afterFetch2 s ∨
     s.useq = .decode ∧ ¬(p.reservedPolicy = .refuse ∧ reservedOpcode p (opcodeBits s.ir) = true) ∧
       t = (s.setStarted true).setUseq
         (if (rom p (opcodeBits s.ir)).isEmpty then .fetch1 else .execute 0 0) ∨
     (∃ k o cw m u, s.useq = .execute k o ∧ (rom p (opcodeBits s.ir))[k]? = some cw ∧ cw[o]? = some m ∧
       applyMicroOp p m (s.setStarted true) = .next u ∧
       t = u.setUseq (nextUseq (rom p (opcodeBits s.ir)) cw k o u.halted)) ∨
     s.useq = .halted ∧ t = s) := by
  obtain ⟨ho, hr⟩ := unlessStopped_eq_next.1 h
  refine ⟨ho, ?_⟩
  cases hu : s.useq with
  | fetch1 => rw [tick_fetch1 ho hu] at h; simp_all
  | fetch2 => rw [tick_fetch2 ho hu] at h; simp_all
  | decode =>
    rw [tick_decode ho hu, tickDecode] at h
    split at h
    · simp at h
    · next hp => exact .inr (.inr (.inl ⟨rfl, hp, (Host.Outcome.next.inj h).symm⟩))
  | execute k o =>
    rw [tickRunning, hu] at hr
    simp only [tickExecute, State.setStarted_ir] at hr
    split at hr
    · simp at hr
    · next cw hw =>
      split at hr
      · simp at hr
      · next m hm =>
        rw [checkedWord_rom _ hw, andThen_eq_next] at hr
        obtain ⟨u, hu', ht⟩ := hr
        exact .inr (.inr (.inr (.inl ⟨k, o, cw, m, u, rfl, hw, hm, hu', (Host.Outcome.next.inj ht).symm⟩)))
  | halted => rw [tick_halted ho hu] at h; simp_all

/-! Ticks to the next boundary, one lemma per way a tick goes. -/

theorem ticksToBoundary_more {p : Config.Params} {s t : State} (fuel : Nat) (h : tick p s = .next t)
    (hb : atBoundary t = false) : ticksToBoundary p (fuel + 1) s = ticksToBoundary p fuel t := by
  simp [ticksToBoundary, h, hb]

theorem ticksToBoundary_done {p : Config.Params} {s t : State} (fuel : Nat) (h : tick p s = .next t)
    (hb : atBoundary t = true) : ticksToBoundary p (fuel + 1) s = .next t := by
  simp [ticksToBoundary, h, hb]

theorem ticksToBoundary_fault {p : Config.Params} {s : State} {r : Fault} (fuel : Nat) (h : tick p s = .fault r) :
    ticksToBoundary p (fuel + 1) s = .fault r := by
  simp [ticksToBoundary, h]

theorem ticksToBoundary_refused {p : Config.Params} {s : State} {r : Refusal} (fuel : Nat)
    (h : tick p s = .refused r) : ticksToBoundary p (fuel + 1) s = .refused r := by
  simp [ticksToBoundary, h]

/-- From FETCH1 the first two ticks are the fetch, whatever comes after. -/
theorem ticksToBoundary_fetch {p : Config.Params} {s : State} (fuel : Nat) (ho : s.outcome = .none)
    (hu : s.useq = .fetch1) :
    ticksToBoundary p (fuel + 2) s = ticksToBoundary p fuel (afterFetch s) := by
  rw [ticksToBoundary_more _ (tick_fetch1 ho hu) rfl,
    ticksToBoundary_more _ (tick_fetch2 (s := afterFetch1 s) ho rfl) rfl, afterFetch2_afterFetch1]

/-! The recorded state, one lemma per outcome. -/

@[simp] theorem recorded_next (s t : State) : recorded s (.next t) = t := rfl

theorem recorded_fault {s : State} (r : Fault) (ho : s.outcome = .none) :
    recorded s (.fault r) = s.setOutcome (.fault r) := by
  simp [recorded, noteStop, ho]

theorem recorded_refused {s : State} (r : Refusal) (ho : s.outcome = .none) :
    recorded s (.refused r) = s.setOutcome (.refused r) := by
  simp [recorded, noteStop, ho]

/-- A recorded stop outlives every later one. -/
theorem recorded_of_stopped {s : State} {o : Host.Outcome State Fault Refusal} (ho : s.outcome ≠ .none)
    (hn : ∀ t, o ≠ .next t) : recorded s o = s := by
  cases o with
  | next t => exact absurd rfl (hn t)
  | fault r => simp [recorded, noteStop, ho]
  | refused r => simp [recorded, noteStop, ho]

/-! The host's load. -/

theorem load_unstarted {s : State} (image : Vector Byte 16) (hs : s.started = false) :
    load image s = .next (s.setMem (Memory.writeAll [] 0 image.toList)) := by
  simp [load, hs]

theorem load_started {s : State} (image : Vector Byte 16) (hs : s.started = true) :
    load image s = .refused .loadWhileRunning := by
  simp [load, hs]

/-! The run, one lemma per way it goes on. -/

theorem run_stopped {p : Config.Params} {s : State} (k : Nat) (ho : s.outcome ≠ .none) :
    run p k s = .stopped s := by
  cases k <;> simp [run, ho]

theorem run_final {p : Config.Params} {s : State} (k : Nat) (ho : s.outcome = .none) (hu : s.useq = .halted) :
    run p k s = .final s := by
  cases k <;> simp [run, ho, hu]

theorem run_zero {p : Config.Params} {s : State} (ho : s.outcome = .none) (hu : s.useq ≠ .halted) :
    run p 0 s = .unfinished s := by
  simp [run, ho, hu]

theorem run_succ {p : Config.Params} {s : State} (k : Nat) (ho : s.outcome = .none) (hu : s.useq ≠ .halted) :
    run p (k + 1) s = run p k (tickRecorded p s) := by
  simp [run, ho, hu]

end Sys2Proof.Machine
end

