-- ==== Sys2Proof/Laws/Step.lean ====
section
/-! SUPPORT. What one step does at each kind of sequencer state, and that every meaning completes. -/

namespace Sys2Proof.Machine

/-- The fetch of the step is the two ticks of the fetch. -/
theorem fetch_eq (s : State) : fetchSecond (fetchFirst (s.setStarted true)) = afterFetch s := by
  simp [fetchSecond, fetchFirst, afterFetch, State.setUseq, State.setPc, State.setIr, State.setBus, State.setStarted,
    State.setMar]

/-- The second half of the fetch of the step is the tick of FETCH2. -/
theorem fetchSecond_eq (s : State) : fetchSecond (s.setStarted true) = afterFetch2 s := by
  simp [fetchSecond, afterFetch2, State.setUseq, State.setPc, State.setIr, State.setBus, State.setStarted]

theorem step_fetch1 {s : State} (ho : s.outcome = .none) (hu : s.useq = .fetch1) :
    step s = exec (decode (Memory.read s.mem (cellOf s.pc))) (afterFetch s) := by
  rw [step, unlessStopped_none ho, stepRunning, hu]
  simp only [fetch_eq, execFetched, afterFetch]

theorem step_fetch2 {s : State} (ho : s.outcome = .none) (hu : s.useq = .fetch2) :
    step s = exec (decode (Memory.read s.mem (cellOf s.mar))) (afterFetch2 s) := by
  rw [step, unlessStopped_none ho, stepRunning, hu]
  simp only [fetchSecond_eq, execFetched, afterFetch2]

theorem step_decode {s : State} (ho : s.outcome = .none) (hu : s.useq = .decode) :
    step s = exec (decode s.ir) (s.setStarted true) := by
  rw [step, unlessStopped_none ho, stepRunning, hu]
  rfl

theorem step_execute {s : State} {k o : Nat} (ho : s.outcome = .none) (hu : s.useq = .execute k o) :
    step s = stepInstr Config.machine s := by
  rw [step, unlessStopped_none ho, stepRunning, hu]

theorem step_halted {s : State} (ho : s.outcome = .none) (hu : s.useq = .halted) : step s = .next s := by
  rw [step, unlessStopped_none ho, stepRunning, hu]

/-- No meaning stops. -/
theorem exec_next (i : Instr) (s : State) : ∃ t, exec i s = .next t := by
  cases i <;> exact ⟨_, rfl⟩

end Sys2Proof.Machine
end

