-- ==== Sys2Proof/Tests/Slice0.lean ====
section
/-! SUPPORT. The model's own tests. Expected values come from the spec: the worked examples and vectors of
95_test_vectors.md, cited by their ids (S1, A-S5, I-LDA1, ...), or the rule named. The theorems named `witness_…` show,
for each obligation with hypotheses, states and operands that meet all of them. -/

namespace Sys2Proof.Tests

open Sys2Proof Sys2Proof.Machine Sys2Proof.Safety

/-! A small state, and what a transition answers. -/

/-- A running engine at FETCH1 of cell `pc`, with A holding `a` and the listed cells. -/
def at1 (pc : Byte) (cells : Memory) (a : Byte) : State :=
  { State.reset with mem := cells, a := a, aWritten := true, pc := pc, started := true }

/-- The same engine with A never written. -/
def fresh (pc : Byte) (cells : Memory) : State := { at1 pc cells 0 with aWritten := false }

/-- The same engine at another point of its instruction. -/
def inPhase (u : USeq) (ir : Byte) (s : State) : State := { s with useq := u, ir := ir }

def stateOf : Host.Outcome State Fault Refusal → Option State
  | .next s => some s
  | _ => none

def faultOf : Host.Outcome State Fault Refusal → Option Fault
  | .fault r => some r
  | _ => none

def refusalOf : Host.Outcome State Fault Refusal → Option Refusal
  | .refused r => some r
  | _ => none

/-- One fact about the state a transition answers. -/
def after {α : Type} (o : Host.Outcome State Fault Refusal) (f : State → α) : Option α := (stateOf o).map f

/-! WellFormed refuses ill-formed terms (rules R139, R146, R77). -/

theorem test_two_writers_refused : ControlWord.singleWriter [.aToBus, .memToBus] = false := by decide

theorem test_reader_before_writer_refused : ControlWord.readersAfterWriter [.busToA, .memToBus] = false := by decide

theorem test_ill_formed_words_refused :
    ControlWord.wellFormed [.pcToBus, .irDataToBus, .busToMar] = false ∧
    ControlWord.wellFormed [.busToMar, .irDataToBus] = false := by decide

theorem test_out_before_writer_accepted : ControlWord.wellFormed [.busToOut, .memToBus] = true := by decide

theorem test_subtract_left_set_refused : ControlWord.subtractRestored [.setSubtract, .aluToBus] = false := by decide

theorem test_subtract_without_alu_refused :
    ControlWord.subtractRestored [.setSubtract, .resetSubtract, .aluToBus] = false := by decide

theorem test_operand_on_nop_refused_by_assembler_form :
    Instr.assemblerForm (.nop 5) = false ∧ Instr.assemblerForm (.hlt 7) = false ∧
    Instr.assemblerForm (.rsv9 15) = false ∧ Instr.assemblerForm (.ldi 5) = true := by decide

/-! Decoding: one word of each constructor, bit by bit from the encoding `oooonnnn` (rule R71; 95_test_vectors.md 2.5). -/

theorem test_decode_nop : decode 0b0000_1111#8 = .nop 15 := by decide
theorem test_decode_lda : decode 0b0001_1110#8 = .lda 14 := by decide
theorem test_decode_add : decode 0b0010_1111#8 = .add 15 := by decide
theorem test_decode_sub : decode 0b0011_1010#8 = .sub 10 := by decide
theorem test_decode_sta : decode 0b0100_1101#8 = .sta 13 := by decide
theorem test_decode_ldi : decode 0b0101_0100#8 = .ldi 4 := by decide
theorem test_decode_jmp : decode 0b0110_1111#8 = .jmp 15 := by decide
theorem test_decode_rsv7 : decode 0b0111_0000#8 = .rsv7 0 := by decide
theorem test_decode_rsv8 : decode 0b1000_1100#8 = .rsv8 12 := by decide
theorem test_decode_rsv9 : decode 0b1001_1111#8 = .rsv9 15 := by decide
theorem test_decode_rsvA : decode 0b1010_0010#8 = .rsvA 2 := by decide
theorem test_decode_rsvB : decode 0b1011_0100#8 = .rsvB 4 := by decide
theorem test_decode_rsvC : decode 0b1100_1000#8 = .rsvC 8 := by decide
theorem test_decode_rsvD : decode 0b1101_0001#8 = .rsvD 1 := by decide
theorem test_decode_out : decode 0b1110_0101#8 = .out 5 := by decide
theorem test_decode_hlt : decode 0b1111_0000#8 = .hlt 0 := by decide

/-- S1 and rule R81. -/
theorem test_encode_worked : encode (.ldi 4) = 0x54 ∧ encode (.hlt 0) = 0xF0 := by decide

theorem test_decode_no_byte : decodeBytes [] = .error .noByte := rfl

theorem test_table_word : decodeTableWord 8 0x3A = some (.sub 10) ∧ decodeTableWord 16 0x3A = none := by decide

/-! The bus, the program counter and the ALU. -/

/-- B5. -/
theorem test_bus_two_destructive_reads :
    (busReadReset (busWrite 0x5A State.reset)).1 = 0x5A ∧
    (busReadReset (busReadReset (busWrite 0x5A State.reset)).2).1 = 0x00 := by decide

/-- PC3, PC5. -/
theorem test_pc_wraps_and_masks :
    (pcAdvance (at1 15 [] 0)).pc = 0 ∧ (pcSet 0x1C (at1 5 [] 0)).pc = 12 := by decide

/-- A-A1, A-A2, A-A4, A-A6. -/
theorem test_alu_add :
    getResult false 0x05 0x03 = ⟨0x08, false, false⟩ ∧ getResult false 0xFF 0x01 = ⟨0x00, true, true⟩ ∧
    getResult false 0x00 0x00 = ⟨0x00, true, false⟩ ∧ getResult false 0xFF 0xFF = ⟨0xFE, false, true⟩ := by decide

/-- A-S1, A-S2, A-S5, A-S8, A-S10. -/
theorem test_alu_sub :
    getResult true 0x05 0x03 = ⟨0x02, false, true⟩ ∧ getResult true 0x03 0x05 = ⟨0xFE, false, false⟩ ∧
    getResult true 0x07 0x00 = ⟨0x07, false, false⟩ ∧ getResult true 0xFF 0xFF = ⟨0x00, true, true⟩ ∧
    getResult true 0x01 0xFF = ⟨0x02, false, false⟩ := by decide

/-! Memory. -/

theorem test_memory_write_is_canonical :
    Memory.write [(2, 0x11)] 0 0x22 = [(0, 0x22), (2, 0x11)] ∧ Memory.write [(2, 0x11)] 2 0x00 = [] ∧
    Memory.write [(2, 0x11)] 15 0x33 = [(2, 0x11), (15, 0x33)] ∧ Memory.write [] 3 0x00 = [] := by decide

theorem test_memory_ill_formed_refused :
    Memory.wf [(2, 0x11), (1, 0x22)] = false ∧ Memory.wf [(16, 0x11)] = false ∧ Memory.wf [(3, 0x00)] = false ∧
    Memory.wf State.reset.mem = true := by decide

/-! One step of each instruction (95_test_vectors.md 2.8 to 2.10). -/

/-- I-LDA1. -/
theorem test_lda : after (step (at1 2 [(2, 0x1A), (10, 0x77)] 0))
    (fun t => (t.a, t.mar, t.ir, t.pc, t.bus)) = some (0x77, 10, 0x1A, 3, 0) := by decide

/-- I-LDA3. -/
theorem test_lda_at_the_top_wraps : after (step (at1 15 [(0, 0xAB), (15, 0x10)] 0))
    (fun t => (t.a, t.mar, t.pc)) = some (0xAB, 0, 0) := by decide

/-- I-ADD2. -/
theorem test_add : after (step (at1 0 [(0, 0x29), (9, 0x01)] 0xFF))
    (fun t => (t.a, t.b, t.fs, t.fsTrace)) = some (0x00, 0x01, some ⟨true, true⟩, [⟨true, true⟩]) := by decide

/-- I-ADD3. -/
theorem test_add_own_cell : after (step (at1 3 [(3, 0x23)] 0x01))
    (fun t => (t.a, t.b, t.mar)) = some (0x24, 0x23, 3) := by decide

/-- I-SUB4. -/
theorem test_sub : after (step (at1 0 [(0, 0x39), (9, 0x05)] 0x03))
    (fun t => (t.a, t.aluZero, t.aluCarry, t.aluSub, t.fs)) = some (0xFE, false, false, false, some ⟨false, false⟩) := by
  decide

/-- I-SUB2. -/
theorem test_sub_zero : after (step (at1 0 [(0, 0x39)] 0x07))
    (fun t => (t.a, t.aluZero, t.aluCarry)) = some (0x07, false, false) := by decide

/-- I-STA1. -/
theorem test_sta : after (step (at1 5 [(5, 0x4C)] 0x99))
    (fun t => (t.mem, t.mar, t.bus, t.pc, t.a)) = some ([(5, 0x4C), (12, 0x99)], 12, 0x99, 6, 0x99) := by decide

/-- I-STA2. -/
theorem test_sta_own_cell : after (step (at1 6 [(6, 0x46)] 0xF0))
    (fun t => (t.mem, t.mar, t.pc)) = some ([(6, 0xF0)], 6, 7) := by decide

/-- I-LDI1. -/
theorem test_ldi : after (step (at1 0 [(0, 0x5F)] 0x33))
    (fun t => (t.a, t.mar, t.bus, t.pc)) = some (0x0F, 0, 0, 1) := by decide

/-- I-JMP1. -/
theorem test_jmp : after (step (at1 7 [(7, 0x63)] 0)) (fun t => (t.pc, t.bus, t.mar)) = some (3, 0x03, 7) := by decide

/-- I-JMP3. -/
theorem test_jmp_to_the_next_cell : after (step (at1 4 [(4, 0x65)] 0)) (fun t => (t.pc, t.bus)) = some (5, 0x05) := by
  decide

/-- I-NOP1. -/
theorem test_nop : after (step (at1 15 [(15, 0x0F)] 0x2A))
    (fun t => (t.pc, t.mar, t.ir, t.bus, t.a)) = some (0, 15, 0x0F, 0, 0x2A) := by decide

/-- I-OUT1. -/
theorem test_out : after (step (at1 0 [(0, 0xE0)] 0x2A))
    (fun t => (t.outTrace, t.bus, t.a)) = some ([0x00], 0, 0x2A) := by decide

/-- I-HLT1. -/
theorem test_hlt : after (step (at1 15 [(15, 0xFF)] 0))
    (fun t => (t.halted, t.useq, t.pc, t.mar, t.ir)) = some (true, .halted, 0, 15, 0xFF) := by decide

/-- The reserved opcodes are NOPs (rule R225, I-RSV1, I-RSV3). -/
theorem test_reserved_is_nop (op : Nibble) (h : 7 ≤ op.toNat ∧ op.toNat ≤ 13) :
    after (step (at1 3 [(3, instrByte op 15)] 0x2A)) (fun t => (t.pc, t.mar, t.ir, t.bus, t.a)) =
      some (4, 3, instrByte op 15, 0, 0x2A) := by
  revert h; revert op; decide

/-- I-STA3. -/
theorem test_sta_unwritten_a_under_the_documented_default :
    faultOf (stepInstr (Config.documented Config.zeroDraw) (fresh 3 [(3, 0x49)])) = some .readUnwrittenA := by decide

/-- I-RSV2. -/
theorem test_reserved_refused :
    refusalOf (stepInstr { Config.machine with reservedPolicy := .refuse } (at1 3 [(3, 0x9F)] 0)) =
      some (.reservedOpcode 9) := by decide

/-- X1, X2. -/
theorem test_jc :
    after (stepInstr { Config.machine with extCondJump := true } { at1 6 [(6, 0x70)] 0 with fs := some ⟨false, true⟩ })
      (fun t => (t.pc, t.bus)) = some (0, 0x00) ∧
    after (stepInstr { Config.machine with extCondJump := true } { at1 6 [(6, 0x70)] 0 with fs := some ⟨false, false⟩ })
      (fun t => (t.pc, t.bus)) = some (7, 0x00) := by decide

/-- X3. -/
theorem test_jz :
    after (stepInstr { Config.machine with extCondJump := true } { at1 2 [(2, 0x89)] 0 with fs := some ⟨true, true⟩ })
      (fun t => (t.pc, t.bus)) = some (9, 0x09) := by decide

/-- The tick trace of SUB (95_test_vectors.md 2.7), tick 9: AluToBus in SUBTRACT mode, the flags not yet stored. -/
theorem test_tick_trace_sub : after (ticks Config.machine 9 (at1 1 [(1, 0x3F), (15, 0x05)] 0x03))
    (fun t => (t.a, t.bus, t.aluSub, t.fs, t.useq)) =
      some (0x03, 0xFE, true, none, .execute 2 2) := by decide

/-- After reset a placed instruction is the one the step runs (S3's first instruction). -/
theorem test_placed_ldi_runs_from_reset : after (step (State.reset.withFetchWord 8 0x54))
    (fun t => (t.a, t.pc, t.useq)) = some (4, 1, .fetch1) := by decide

/-- Two loads before the first tick leave the second image (rule R281). -/
theorem test_second_load_counts :
    after (andThen (load (Vector.replicate 16 0x11) State.reset) (load (Vector.ofFn fun i => BitVec.ofNat 8 i.val)))
      (fun t => (Memory.read t.mem 0, Memory.read t.mem 15)) = some (0, 15) := by decide

/-- A load after the first tick is recorded, and no step follows it (rule R256, decision D14). -/
theorem test_refused_load_is_recorded :
    (loadRecorded (Vector.replicate 16 0x11) (at1 3 [(3, 0x50)] 7)).outcome = .refused .loadWhileRunning ∧
    (loadRecorded (Vector.replicate 16 0x11) (at1 3 [(3, 0x50)] 7)).mem = [(3, 0x50)] ∧
    refusalOf (step (loadRecorded (Vector.replicate 16 0x11) (at1 3 [(3, 0x50)] 7))) = some .loadWhileRunning := by
  decide

/-! Witnesses of the obligations' hypotheses. -/

/-- A state of the invariant: the one after reset. -/
theorem witness_inv_reset : Inv Config.machine State.reset :=
  ⟨by decide, by decide, nofun, fun _ => rfl, by decide, rfl, rfl⟩

/-- A state of the invariant in the middle of an ADD whose A is unwritten, about to apply `AluToBus`. -/
theorem witness_inv_add_unwritten :
    Inv (Config.documented Config.zeroDraw) (inPhase (.execute 2 0) 0x29 (fresh 1 [(0, 0x29)])) :=
  ⟨by decide, by decide, fun _ => by decide, nofun, by decide, ⟨_, _, rfl, rfl, rfl, nofun⟩, rfl⟩

/-- The same for SUB, after `SetSubtract`. -/
theorem witness_inv_sub_unwritten : Inv (Config.documented Config.zeroDraw)
    { inPhase (.execute 2 1) 0x39 (fresh 1 [(0, 0x39)]) with aluSub := true } :=
  ⟨by decide, by decide, fun _ => by decide, nofun, by decide, ⟨_, _, rfl, rfl, rfl, nofun⟩, rfl⟩

/-- The same for STA. -/
theorem witness_inv_sta_unwritten :
    Inv (Config.documented Config.zeroDraw) (inPhase (.execute 1 0) 0x49 (fresh 1 [(0, 0x49)])) :=
  ⟨by decide, by decide, fun _ => by decide, nofun, by decide, ⟨_, _, rfl, rfl, rfl, nofun⟩, rfl⟩

/-- A state of the invariant about to send an operand to MAR, in the largest cell. -/
theorem witness_inv_to_mar :
    Inv Config.machine { inPhase (.execute 0 1) 0x1F (at1 0 [(15, 0x1F)] 7) with bus := 15, mar := 15 } :=
  ⟨by decide, by decide, fun _ => by decide, nofun, by decide, ⟨_, _, rfl, rfl, rfl, fun _ => by decide⟩, rfl⟩

/-- A halted state of the invariant. -/
theorem witness_inv_halted :
    Inv Config.machine { inPhase .halted 0xF0 (at1 1 [(0, 0xF0)] 7) with halted := true } :=
  ⟨by decide, by decide, fun _ => by decide, nofun, by decide, rfl, rfl⟩

theorem witness_HighNibbleSelectsInstruction : (decode 0xFF).opcode = 0xF ∧ 0xFF#8 &&& 0xF0#8 = instrByte 0xF 0 := by
  decide

theorem witness_ProgramCounterAdvanceAndSet : (at1 15 [] 0).pc = 15 := rfl

theorem witness_GetResultAddsAndSetsFlags :
    aUnwritten Config.machine State.reset = false ∧
    aUnwritten (Config.documented Config.zeroDraw) (at1 0 [] 5) = false := by decide

/-- One micro-operation of each role answers a next state. Also for EachFieldHasItsOwnWriters. -/
theorem witness_MicroOpKeepsItsBusRole :
    (∃ t, applyMicroOp Config.machine .aluToBus State.reset = .next t) ∧
    (∃ t, applyMicroOp Config.machine .busToMar State.reset = .next t) ∧
    (∃ t, applyMicroOp Config.machine .busToMem State.reset = .next t) ∧
    (∃ t, applyMicroOp Config.machine .storeFlags State.reset = .next t) :=
  ⟨⟨_, rfl⟩, ⟨_, rfl⟩, ⟨_, rfl⟩, ⟨_, rfl⟩⟩

/-- Each clause of MicroOpsSucceedButForModelFaults. -/
theorem witness_MicroOpsSucceedButForModelFaults :
    (Config.documented Config.zeroDraw).aResetValue = none ∧ (fresh 0 []).aWritten = false ∧ (fresh 0 []).fs = none ∧
    Config.machine.aResetValue ≠ none ∧ (at1 0 [] 5).aWritten = true := by decide

theorem witness_MemoryAccessUsesLowFourBitsOfMar :
    Memory.wf [(0, 0x11), (15, 0x22)] = true ∧ (at1 0 [(0, 0x11), (15, 0x22)] 0).started = true := by decide

theorem witness_MemoryIsDeterminedByItsCells :
    Memory.wf [(0, 0x11), (15, 0x22)] = true ∧ Memory.wf (Memory.write [(15, 0x22)] 0 0x11) = true ∧
    ∀ a, a < 16 → Memory.read [(0, 0x11), (15, 0x22)] a = Memory.read (Memory.write [(15, 0x22)] 0 0x11) a := by decide

theorem witness_RomWordsAreWellFormed :
    [.memToBus, .busToA] ∈ rom Config.machine 1 ∧ [.busToOut] ∈ rom Config.machine 14 ∧
    MicroOp.busToOut ∈ ([.busToOut] : ControlWord).takeWhile (fun m => !m.isWriter) ∧
    MicroOp.isReader .busToOut = true := by decide

theorem witness_RomRestoresAddMode :
    MicroOp.setSubtract ∈ ([.setSubtract, .aluToBus, .busToA, .storeFlags, .resetSubtract] : ControlWord) ∧
    [.setSubtract, .aluToBus, .busToA, .storeFlags, .resetSubtract] ∈ rom Config.machine 3 ∧
    (at1 0 [] 5).aluSub = false ∧
    (stateOf (applyWord Config.machine [.setSubtract, .aluToBus, .busToA, .storeFlags, .resetSubtract]
      (at1 0 [] 5))).isSome = true := by decide

/-- An engine about to fetch, of a cell at either end of memory. For BusConflictNeverFires, FetchTakesTheByteAtPc,
TicksPerInstruction and StepRunsTheDecodedInstruction. -/
theorem witness_about_to_fetch :
    State.reset.outcome = .none ∧ State.reset.useq = .fetch1 ∧
    (at1 15 [(15, 0x4D)] 7).outcome = .none ∧ (at1 15 [(15, 0x4D)] 7).useq = .fetch1 ∧
    decode (Memory.read (at1 15 [(15, 0x4D)] 7).mem ((at1 15 [(15, 0x4D)] 7).pc.toNat % 16)) = .sta 13 ∧
    (inPhase .fetch2 0 State.reset).outcome = .none ∧ (inPhase .fetch2 0 State.reset).useq = .fetch2 := by decide

/-- At both ends of the reserved range, and just outside it, with the extension's lower end. -/
theorem witness_DecodeTickOnlyMovesTheSequencer :
    (∀ ir : Byte, (inPhase .decode ir State.reset).outcome = .none ∧ (inPhase .decode ir State.reset).useq = .decode) ∧
    (opcodeBits 0x60).toNat = 6 ∧ (opcodeBits 0x70).toNat = 7 ∧ (opcodeBits 0x8F).toNat = 8 ∧
    (opcodeBits 0x90).toNat = 9 ∧ (opcodeBits 0xDF).toNat = 13 ∧ (opcodeBits 0xE0).toNat = 14 :=
  ⟨fun _ => ⟨rfl, rfl⟩, by decide⟩

theorem witness_WordAppliesOneMicroOpPerTick :
    (inPhase (.execute 2 0) 0x39 (at1 1 [] 5)).outcome = .none ∧
    (rom Config.machine (opcodeBits (inPhase (.execute 2 0) 0x39 (at1 1 [] 5)).ir))[2]? =
      some [.setSubtract, .aluToBus, .busToA, .storeFlags, .resetSubtract] := by decide

/-- Both clauses: a halted engine, and a tick that leaves a state whose halted flag was set. -/
theorem witness_HaltedEngineIsLeftAlone :
    (inPhase .halted 0xF0 State.reset).outcome = .none ∧ (inPhase .halted 0xF0 State.reset).useq = .halted ∧
    after (tick Config.machine { inPhase .halted 0xF0 State.reset with halted := true }) (fun t => t.halted) =
      some true := by decide

/-- Both clauses: a tick that faults and one that is refused. -/
theorem witness_StopIsRecordedForGood :
    (fresh 3 []).outcome = .none ∧
    faultOf (tick (Config.documented Config.zeroDraw) (inPhase (.execute 1 0) 0x49 (fresh 3 []))) =
      some .readUnwrittenA ∧
    refusalOf (tick { Config.machine with reservedPolicy := .refuse } (inPhase .decode 0x9F (at1 4 [] 0))) =
      some (.reservedOpcode 9) := by decide

/-- Every kind of tick answers a next state somewhere. For IrIsWrittenOnlyInFetch2, TickKeepsInvariant and the last two
clauses of LoadReplacesMemoryBeforeTheFirstTick. -/
theorem witness_ticks :
    (∃ t, tick Config.machine State.reset = .next t) ∧
    (∃ t, tick Config.machine (inPhase .decode 0x1E (at1 1 [] 0)) = .next t) ∧
    (∃ t, tick Config.machine (inPhase (.execute 0 0) 0x1E (at1 1 [] 0)) = .next t) ∧
    (∃ t, tick Config.machine (inPhase .halted 0xF0 (at1 1 [] 0)) = .next t) :=
  ⟨⟨_, rfl⟩, ⟨_, rfl⟩, ⟨_, rfl⟩, ⟨_, rfl⟩⟩

theorem witness_PcIsWrittenOnlyInFetch2AndJmp :
    Config.machine.extCondJump = false ∧
    after (tick Config.machine { inPhase (.execute 0 1) 0x6F (at1 1 [] 0) with bus := 15 }) (fun t => t.pc) = some 15 ∧
    after (tick Config.machine (inPhase .decode 0x6F (at1 1 [] 0))) (fun t => t.pc) = some 1 := by decide

theorem witness_RunEndsFinalOnlyInHalted :
    (∃ t, run Config.machine 4 (at1 0 [(0, 0xF0)] 0) = .final t) ∧
    (∃ t, run (Config.documented Config.zeroDraw) 6 (fresh 0 [(0, 0x49)]) = .stopped t) :=
  ⟨⟨_, rfl⟩, ⟨_, rfl⟩⟩

theorem witness_PlacedInstructionRunsNext :
    Memory.wf State.reset.mem = true ∧ decodeTableWord 8 0x4D = some (.sta 13) ∧ decodeTableWord 4 0xFF = some (.nop 15) := by
  decide

/-- Each clause of DocumentedDefaultDiffersOnlyOnUnwrittenA: opcodes 1 to 5, A unwritten, and A written. -/
theorem witness_DocumentedDefaultDiffersOnlyOnUnwrittenA :
    (fresh 0 [(0, 0x2F)]).outcome = .none ∧ (fresh 0 [(0, 0x2F)]).useq = .fetch1 ∧
    (fresh 0 [(0, 0x2F)]).aWritten = false ∧ (at1 0 [(0, 0x2F)] 5).aWritten = true ∧
    opcodeBits 0x1F = 1 ∧ opcodeBits 0x2F = 2 ∧ opcodeBits 0x3F = 3 ∧ opcodeBits 0x4F = 4 ∧ opcodeBits 0x5F = 5 := by
  decide

/-- The policy's clauses, at both ends of the reserved range and just outside it. -/
theorem witness_RefusePolicyRefusesReservedOpcodes :
    (at1 0 [(0, 0x70)] 0).outcome = .none ∧ (at1 0 [(0, 0x70)] 0).useq = .fetch1 ∧
    (opcodeBits 0x6F).toNat = 6 ∧ (opcodeBits 0x70).toNat = 7 ∧ (opcodeBits 0xDF).toNat = 13 ∧
    (opcodeBits 0xE0).toNat = 14 := by decide

/-- For both extension jumps, with FS unwritten, false and true. -/
theorem witness_ExtensionJumps :
    (at1 15 [(15, 0x7F)] 0).halted = false ∧ (at1 15 [(15, 0x7F)] 0).fs = none ∧
    Memory.read (at1 15 [(15, 0x7F)] 0).mem ((at1 15 [(15, 0x7F)] 0).pc.toNat % 16) = instrByte 7 15 ∧
    Memory.read (at1 0 [(0, 0x80)] 0).mem ((at1 0 [(0, 0x80)] 0).pc.toNat % 16) = instrByte 8 0 ∧
    { at1 0 [(0, 0x80)] 0 with fs := some ⟨true, false⟩ }.useq = .fetch1 := by decide

theorem witness_ExtensionReplacesTwoEntriesOnly :
    (at1 0 [(0, 0x90)] 0).outcome = .none ∧ (at1 0 [(0, 0x90)] 0).useq = .fetch1 ∧ opcodeBits 0x90 = 9 ∧
    opcodeBits 0x7F = 7 ∧ opcodeBits 0x80 = 8 ∧ opcodeBits 0x6F = 6 := by decide

theorem witness_StaStoresA :
    Memory.wf [(5, 0x4C)] = true ∧ cellOf (addressOperand 15 (at1 5 [(5, 0x4C)] 9)).mar = 15 ∧
    (Config.documented Config.zeroDraw).aResetValue = none ∧
    (inPhase (.execute 1 0) 0x49 (fresh 1 [])).aWritten = false ∧
    (inPhase (.execute 1 0) 0x49 (fresh 1 [])).outcome = .none ∧
    (inPhase (.execute 1 0) 0x49 (fresh 1 [])).useq = .execute 1 0 ∧ opcodeBits 0x49 = 4 := by decide

theorem witness_AddAddsTheCell :
    (inPhase (.execute 2 0) 0x29 (fresh 1 [])).aluSub = false ∧
    (inPhase (.execute 2 0) 0x29 (fresh 1 [])).aWritten = false ∧
    (inPhase (.execute 2 0) 0x29 (fresh 1 [])).outcome = .none ∧ opcodeBits 0x29 = 2 := by decide

theorem witness_SubSubtractsTheCell :
    (Config.documented Config.zeroDraw).aResetValue = none ∧
    (inPhase (.execute 2 1) 0x39 (fresh 1 [])).aWritten = false ∧
    (inPhase (.execute 2 1) 0x39 (fresh 1 [])).outcome = .none ∧ opcodeBits 0x39 = 3 := by decide

/-- Both clauses, at NOP and at both ends of the reserved range. -/
theorem witness_NopAndReservedOnlyFetch :
    Instr.rsvD 15 ∈ [Instr.nop 15, .rsv7 15, .rsv8 15, .rsv9 15, .rsvA 15, .rsvB 15, .rsvC 15, .rsvD 15] ∧
    (at1 0 [(0, 0xD1)] 0).outcome = .none ∧ (at1 0 [(0, 0xD1)] 0).useq = .fetch1 ∧ opcodeBits 0x0F = 0 ∧
    opcodeBits 0x70 = 7 ∧ opcodeBits 0xD1 = 13 := by decide

/-- For OutEmitsTheClearedBus and HaltIsFinal. -/
theorem witness_out_and_hlt_fetched :
    opcodeBits (Memory.read (at1 0 [(0, 0xE5)] 7).mem ((at1 0 [(0, 0xE5)] 7).pc.toNat % 16)) = 14 ∧
    opcodeBits (Memory.read (at1 15 [(15, 0xFF)] 7).mem ((at1 15 [(15, 0xFF)] 7).pc.toNat % 16)) = 15 ∧
    (at1 15 [(15, 0xFF)] 7).outcome = .none ∧ (at1 15 [(15, 0xFF)] 7).useq = .fetch1 := by decide

/-- An instruction of each kind completes. For FlagsChangedOnlyByAddAndSub, MemoryChangedOnlyBySta and
RegistersChangedOnlyByTheirInstructions. -/
theorem witness_instructions_complete :
    (∃ t, exec (.sta 15) State.reset = .next t) ∧ (∃ t, exec (.add 15) State.reset = .next t) ∧
    (∃ t, exec (.jmp 15) State.reset = .next t) ∧ (∃ t, exec (.ldi 15) State.reset = .next t) ∧
    (∀ n, Instr.sta 15 ≠ .add n) ∧ (∀ n, Instr.sta 15 ≠ .sub n) ∧ Instr.sta 15 ≠ .sta (BitVec.ofNat 4 0) :=
  ⟨⟨_, rfl⟩, ⟨_, rfl⟩, ⟨_, rfl⟩, ⟨_, rfl⟩, nofun, nofun, by decide⟩

/-- An STA to the cell after it, and to its own cell. -/
theorem witness_StoredByteIsWhatALaterFetchRuns :
    Memory.wf [(6, 0x47)] = true ∧
    Memory.read (at1 6 [(6, 0x47)] 0xF0).mem ((at1 6 [(6, 0x47)] 0xF0).pc.toNat % 16) = instrByte 4 7 ∧
    (at1 7 [(6, 0x47), (7, 0xF0)] 0xF0).pc.toNat % 16 = (7 : Nibble).toNat ∧
    Memory.read (at1 6 [(6, 0x46)] 0xF0).mem ((at1 6 [(6, 0x46)] 0xF0).pc.toNat % 16) = instrByte 4 6 ∧
    (at1 6 [(6, 0x47)] 0xF0).outcome = .none ∧ (at1 6 [(6, 0x47)] 0xF0).useq = .fetch1 ∧
    after (step (at1 6 [(6, 0x47)] 0xF0)) (fun t => t.mem) = some (at1 7 [(6, 0x47), (7, 0xF0)] 0xF0).mem := by decide

theorem witness_JumpToItselfNeverHalts :
    (at1 15 [(15, 0x6F)] 0).outcome = .none ∧ (at1 15 [(15, 0x6F)] 0).useq = .fetch1 ∧
    (at1 15 [(15, 0x6F)] 0).halted = false ∧ (at1 15 [(15, 0x6F)] 0).pc.toNat < 16 ∧
    Memory.read (at1 15 [(15, 0x6F)] 0).mem (at1 15 [(15, 0x6F)] 0).pc.toNat =
      instrByte 6 (BitVec.ofNat 4 (at1 15 [(15, 0x6F)] 0).pc.toNat) := by decide

/-- A load completes from reset, and both values of `started` occur. -/
theorem witness_loads :
    (∃ t, load (Vector.replicate 16 0x11) State.reset = .next t) ∧ State.reset.started = false ∧
    (at1 0 [] 0).started = true ∧ State.reset.useq ≠ .halted ∧ Config.machine.aResetValue = some 0 :=
  ⟨⟨_, rfl⟩, rfl, rfl, by decide, rfl⟩

/-- Both clauses: a started engine without a recorded stop, and one with a stop of another kind. -/
theorem witness_LoadRefusalIsRecordedForGood :
    (at1 0 [] 0).started = true ∧ (at1 0 [] 0).outcome = .none ∧
    { at1 0 [] 0 with outcome := .fault .readUnwrittenA }.started = true ∧
    { at1 0 [] 0 with outcome := .fault .readUnwrittenA }.outcome ≠ .none := by decide

/-- A tick that faults, in a state of the invariant (`witness_inv_sta_unwritten`), beside `witness_inv_reset`. -/
theorem witness_RecordedStopsKeepInvariant :
    (inPhase (.execute 1 0) 0x49 (fresh 1 [(0, 0x49)])).outcome = .none ∧
    faultOf (tick (Config.documented Config.zeroDraw) (inPhase (.execute 1 0) 0x49 (fresh 1 [(0, 0x49)]))) =
      some .readUnwrittenA := by decide

theorem witness_StepKeepsInvariant : ∃ t, step State.reset = .next t := ⟨_, rfl⟩

theorem witness_MachineNeverStops : State.reset.outcome = .none := rfl

/-- Both clauses of DocumentedDefaultStopsOnlyOnUnwrittenA, with the three `witness_inv_…_unwritten` above. -/
theorem witness_DocumentedDefaultStopsOnlyOnUnwrittenA :
    (inPhase (.execute 2 0) 0x29 (fresh 1 [(0, 0x29)])).outcome = .none ∧
    (inPhase (.execute 2 0) 0x29 (fresh 1 [(0, 0x29)])).aWritten = false ∧ opcodeBits 0x29 = 2 ∧
    opcodeBits 0x39 = 3 ∧ opcodeBits 0x49 = 4 := by decide

/-- Two states that differ in every reset draw. -/
theorem witness_RunDoesNotDependOnResetDraws :
    SameButDraws State.reset
      (State.resetWith { Config.machine with resetDraw := ⟨0xFF, 0xFF, 0xFF, 0xFF, true, true⟩ }) ∧
    atBoundary State.reset = true :=
  ⟨rfl, rfl⟩

end Sys2Proof.Tests
end

section
/-! The encoding statements: the masks of rules R71 and R74, and the decoder on an encoded instruction. -/

namespace Sys2Proof

/-- The mask 0xF0 keeps the opcode in its place (rule R71). -/
theorem instrByte_and_highMask (op n : Nibble) : instrByte op n &&& 0xF0#8 = instrByte op 0 := by
  have hmask : 0xF0#8 = 0xF#4 ++ 0x0#4 := rfl
  have hop : op &&& 0xF#4 = op := BitVec.and_allOnes
  rw [hmask, instrByte, BitVec.and_append, hop, BitVec.and_zero]
  rfl

/-- The mask 0x0F keeps the operand (rule R71). -/
theorem instrByte_and_lowMask (op n : Nibble) : instrByte op n &&& 0x0F#8 = instrByte 0 n := by
  have hmask : 0x0F#8 = 0x0#4 ++ 0xF#4 := rfl
  have hn : n &&& 0xF#4 = n := BitVec.and_allOnes
  rw [hmask, instrByte, BitVec.and_append, hn, BitVec.and_zero]
  rfl

theorem and_highMask (b : Byte) : b &&& 0xF0#8 = instrByte (opcodeBits b) 0 := by
  simpa using instrByte_and_highMask (opcodeBits b) (operandBits b)

theorem and_lowMask (b : Byte) : b &&& 0x0F#8 = instrByte 0 (operandBits b) := by
  simpa using instrByte_and_lowMask (opcodeBits b) (operandBits b)

/-- Two bytes with the same operand are equal exactly where their opcodes are. -/
theorem instrByte_left_inj {op op' n : Nibble} : instrByte op n = instrByte op' n ↔ op = op' :=
  ⟨fun h => by simpa using congrArg opcodeBits h, fun h => h ▸ rfl⟩

/-- The decoder inverts the encoder: it sees no more of a byte than its two fields, and they are the instruction's. -/
@[simp] theorem decode_encode (i : Instr) : decode (encode i) = i := by
  unfold decode
  rw [opcodeBits_encode, operandBits_encode]
  cases i <;> rfl

end Sys2Proof

open Sys2Proof

/-- Settles O1: each word is the encoding of its instruction. -/
theorem decodeReadsSpecWords : Obligations.DecodeReadsSpecWords :=
  ⟨decode_encode (.ldi 4), decode_encode (.hlt 0), decode_encode (.nop 0), decode_encode (.nop 15),
    decode_encode (.lda 14), decode_encode (.add 15), decode_encode (.sub 10), decode_encode (.sta 13),
    decode_encode (.jmp 15), decode_encode (.rsv7 0), decode_encode (.rsv8 12), decode_encode (.rsv9 15),
    decode_encode (.rsvD 1), decode_encode (.out 0), decode_encode (.out 5), decode_encode (.hlt 15)⟩

/-- Settles O2: a masked byte is the byte of one field beside 0, and `instrByte_toNat` is its value. -/
theorem encodingIsOpcodeThenOperand : Obligations.EncodingIsOpcodeThenOperand := by
  refine ⟨fun b => ⟨?opcode, ?operand⟩, instrByte_toNat, fun _ => rfl⟩
  case opcode => simp [and_highMask, instrByte_toNat]
  case operand => simp [and_lowMask, instrByte_toNat]

/-- Settles O4: `instrByte op n` is the encoding of opcode `op`'s instruction, and the mask 0xF0 keeps the opcode
alone. -/
theorem highNibbleSelectsInstruction : Obligations.HighNibbleSelectsInstruction := by
  refine ⟨fun n => ?entry, fun b op => ?mask⟩
  case entry =>
    exact ⟨decode_encode (.nop n), decode_encode (.lda n), decode_encode (.add n), decode_encode (.sub n),
      decode_encode (.sta n), decode_encode (.ldi n), decode_encode (.jmp n), decode_encode (.rsv7 n),
      decode_encode (.rsv8 n), decode_encode (.rsv9 n), decode_encode (.rsvA n), decode_encode (.rsvB n),
      decode_encode (.rsvC n), decode_encode (.rsvD n), decode_encode (.out n), decode_encode (.hlt n)⟩
  case mask => rw [and_highMask, instrByte_left_inj, opcode_decode]

end

section
/-! The arithmetic unit: the operand and the three parts of `get_result` as numbers (rule R131). -/

namespace Sys2Proof.Machine

/-- The complement of a byte is its distance to 255, so that the negation is the spec's `(~rhs + 1) mod 256`. -/
theorem aluOperand_toNat (sub : Bool) (rhs : Byte) :
    (aluOperand sub rhs).toNat = if sub then (255 - rhs.toNat + 1) % 256 else rhs.toNat := by
  cases sub with
  | false => rfl
  | true => simp [aluOperand, BitVec.toNat_add, BitVec.toNat_not]

theorem getResult_value_toNat (sub : Bool) (lhs rhs : Byte) :
    (getResult sub lhs rhs).value.toNat = (lhs.toNat + (aluOperand sub rhs).toNat) % 256 :=
  BitVec.toNat_ofNat _ _

theorem getResult_carry_iff (sub : Bool) (lhs rhs : Byte) :
    (getResult sub lhs rhs).carry = true ↔ lhs.toNat + (aluOperand sub rhs).toNat ≥ 256 :=
  decide_eq_true_iff

theorem getResult_zero_iff (sub : Bool) (lhs rhs : Byte) :
    (getResult sub lhs rhs).zero = true ↔ (getResult sub lhs rhs).value = 0 :=
  beq_iff_eq

end Sys2Proof.Machine

open Sys2Proof.Machine

/-- Settles O7: `get_result` adds the operand that `aluOperand_toNat` gives, and `AluToBus` passes the guard on A. -/
theorem getResultAddsAndSetsFlags : Obligations.GetResultAddsAndSetsFlags := by
  refine ⟨fun sub lhs rhs => ?result, fun p s hA => ?aluToBus⟩
  case result =>
    rw [← aluOperand_toNat]
    exact ⟨getResult_value_toNat sub lhs rhs, getResult_carry_iff sub lhs rhs, getResult_zero_iff sub lhs rhs⟩
  case aluToBus => exact readingA_eq_next.mpr ⟨hA, aluToBus_eq s⟩

end

section
/-! The fetch as ticks of the sequencer (rules R161, R162, R171). -/

namespace Sys2Proof.Machine

/-- The first two ticks of an instruction are its fetch, under any choice of the parameters. -/
theorem ticks_fetch {p : Config.Params} {s : State} (ho : s.outcome = .none) (hu : s.useq = .fetch1) :
    ticks p 2 s = .next (afterFetch s) := by
  have hsecond : tick p (afterFetch1 s) = .next (afterFetch s) := by
    rw [← afterFetch2_afterFetch1]
    exact tick_fetch2 ho rfl
  simp only [ticks, tick_fetch1 ho hu, andThen_next, hsecond]

end Sys2Proof.Machine

open Sys2Proof.Machine

/-- Settles O17: the three next states are `afterFetch2`, `afterFetch1` and `afterFetch`, and the cell an address
register selects is its value mod 16 (`cellOf_eq_mod`). -/
theorem fetchTakesTheByteAtPc : Obligations.FetchTakesTheByteAtPc := by
  refine ⟨rfl, rfl, fun p s ho hu => ?fetch2, fun p s ho hu => ⟨tick_fetch1 ho hu, ?bothTicks⟩⟩
  case fetch2 =>
    rw [← cellOf_eq_mod]
    exact tick_fetch2 ho hu
  case bothTicks =>
    rw [← cellOf_eq_mod]
    exact ticks_fetch ho hu

end

section
/-! The loads into A (rules R181, R183): the cell's byte, or the operand itself, reaches the bus and A takes it. -/

namespace Sys2Proof.Machine

/-- Steps 1 and 2 up to the bus, as LDA, ADD and SUB begin: the operand selects the cell of its own number, and that
cell's byte is on the bus (rules R180, R181). -/
theorem memToBus_addressOperand (n : Nibble) (s : State) :
    memToBus (addressOperand n s) = { s with mar := zext8 n, bus := Memory.read s.mem n.toNat } := by
  rw [memToBus_eq, addressOperand, addressOperand_mar, cellOf_zext8]
  rfl

/-- The last step of a load: A takes the bus, the destructive read clears it, and the instruction ends (rules R116,
R165). -/
theorem retire_busToA (s : State) :
    retire (busToA s) =
      { s with a := s.bus, aWritten := true, bus := 0, useq := if s.halted then .halted else .fetch1 } := rfl

end Sys2Proof.Machine

open Sys2Proof Sys2Proof.Machine

/-- Settles O34: the bus holds the byte of cell n (`memToBus_addressOperand`) when A takes it (`retire_busToA`). -/
theorem ldaLoadsTheCell : Obligations.LdaLoadsTheCell := by
  refine fun n s => ⟨decode_encode (.lda n), rfl, ?result⟩
  case result => rw [exec, execLda, memToBus_addressOperand, retire_busToA]

/-- Settles O36: the bus holds the operand itself (`operandToBus_eq`) when A takes it (`retire_busToA`). -/
theorem ldiLoadsTheOperand : Obligations.LdiLoadsTheOperand := by
  refine fun n s => ⟨decode_encode (.ldi n), rfl, ?result, zext8_toNat n⟩
  case result =>
    rw [exec, execLdi, retire_busToA, operandToBus_eq]
    rfl

end

section
/-! Decoding and encoding as inverses, and memory as determined by its cells. -/

namespace Sys2Proof

/-- The encoder inverts the decoder: the two fields a byte decodes to are the byte. -/
@[simp] theorem encode_decode (b : Byte) : encode (decode b) = b := by
  rw [encode, opcode_decode, operand_decode, instrByte_bits]

namespace Machine.Memory

/-- The first cell of a canonical form reads as the byte listed for it, so it is not an unlisted one. -/
theorem read_head_ne_unlisted {lo k : Nat} {v : Byte} {m : Memory} (h : wfFrom lo ((k, v) :: m) = true) :
    read ((k, v) :: m) k ≠ Config.unlistedByte := by
  obtain ⟨-, -, hv, -⟩ := wfFrom_cons.1 h
  simpa [read] using hv

/-- A canonical form in which every cell reads as an unlisted one lists nothing. -/
theorem eq_nil_of_read_unlisted {lo : Nat} {m : Memory} (h : wfFrom lo m = true)
    (hr : ∀ a, a < Config.memorySize → read m a = Config.unlistedByte) : m = [] := by
  cases m with
  | nil => rfl
  | cons c m => exact absurd (hr c.1 (wfFrom_cons.1 h).2.1) (read_head_ne_unlisted h)

/-- The first listed cell of two canonical forms that read alike is the same: below its own first cell the other
form would read as unlisted. -/
theorem head_le_head {lo k k' : Nat} {v v' : Byte} {m m' : Memory} (h : wfFrom lo ((k, v) :: m) = true)
    (h' : wfFrom lo ((k', v') :: m') = true)
    (hr : ∀ a, a < Config.memorySize → read ((k, v) :: m) a = read ((k', v') :: m') a) : k' ≤ k := by
  refine Nat.le_of_not_lt fun hlt => ?_
  obtain ⟨-, hk, hv, -⟩ := wfFrom_cons.1 h
  obtain ⟨-, hk', hv', hm'⟩ := wfFrom_cons.1 h'
  have hbelow : read ((k', v') :: m') k = Config.unlistedByte :=
    read_below (wfFrom_cons.2 ⟨Nat.le_refl k', hk', hv', hm'⟩) (by omega)
  exact read_head_ne_unlisted h ((hr k hk).trans hbelow)

/-- Two canonical forms that read alike at every cell are the same list, by induction along the first of them. -/
theorem eq_of_read_eq {lo : Nat} {m m' : Memory} (h : wfFrom lo m = true) (h' : wfFrom lo m' = true)
    (hr : ∀ a, a < Config.memorySize → read m a = read m' a) : m = m' := by
  induction m generalizing lo m' with
  | nil => exact (eq_nil_of_read_unlisted h' fun a ha => (hr a ha).symm).symm
  | cons c m ih =>
    cases m' with
    | nil => exact eq_nil_of_read_unlisted h hr
    | cons c' m' =>
      obtain ⟨k, v⟩ := c
      obtain ⟨k', v'⟩ := c'
      obtain rfl : k = k' := Nat.le_antisymm (head_le_head h' h fun a ha => (hr a ha).symm) (head_le_head h h' hr)
      obtain ⟨-, hk, -, hm⟩ := wfFrom_cons.1 h
      obtain ⟨-, -, -, hm'⟩ := wfFrom_cons.1 h'
      have hv : v = v' := by simpa [read] using hr k hk
      have htail : ∀ a, a < Config.memorySize → read m a = read m' a := by
        intro a ha
        by_cases hka : a ≤ k
        · rw [read_below hm (by omega), read_below hm' (by omega)]
        · have hne : k ≠ a := by omega
          simpa [read, hne] using hr a ha
      rw [hv, ih hm hm' htail]

end Machine.Memory

end Sys2Proof

open Sys2Proof Sys2Proof.Machine

/-- Settles O3: both inverses rest on the two fields, which the decoder keeps. -/
theorem decodeEncodeInverse : Obligations.DecodeEncodeInverse :=
  ⟨decode_encode, encode_decode⟩

/-- Settles O13: canonical forms from address 0 on are compared cell by cell (`eq_of_read_eq`). -/
theorem memoryIsDeterminedByItsCells : Obligations.MemoryIsDeterminedByItsCells :=
  fun _ _ h h' hr => Memory.eq_of_read_eq h h' hr

end

section
/-! The closed forms of `get_result` in its two modes (rules R134, R135). -/

namespace Sys2Proof.Machine

/-- Subtracting a byte is adding its negation. -/
theorem aluOperand_subtract (rhs : Byte) : aluOperand true rhs = -rhs := BitVec.neg_eq_not_add rhs ▸ rfl

theorem getResult_value (sub : Bool) (lhs rhs : Byte) :
    (getResult sub lhs rhs).value = lhs + aluOperand sub rhs := by
  apply BitVec.eq_of_toNat_eq
  rw [getResult_value_toNat, BitVec.toNat_add]

/-- The negation of a byte is its distance to 256, but for 0, which is its own negation: so a subtraction of 0 gives
no carry (conflict C5). -/
theorem subtract_carry_iff (lhs rhs : Byte) :
    (getResult true lhs rhs).carry = true ↔ rhs ≠ 0 ∧ lhs.toNat ≥ rhs.toNat := by
  have hl := lhs.isLt
  have hr := rhs.isLt
  have hzero : rhs ≠ 0 ↔ rhs.toNat ≠ 0 := by simp [← BitVec.toNat_inj]
  rw [getResult_carry_iff, aluOperand_toNat, if_pos rfl, hzero]
  omega

theorem subtract_value (lhs rhs : Byte) : (getResult true lhs rhs).value = lhs - rhs := by
  rw [getResult_value, aluOperand_subtract, BitVec.sub_eq_add_neg]

theorem subtract_zero_iff (lhs rhs : Byte) : (getResult true lhs rhs).zero = true ↔ lhs = rhs := by
  rw [getResult_zero_iff, subtract_value]
  change lhs - rhs = 0#8 ↔ lhs = rhs
  rw [BitVec.sub_eq_iff_eq_add, BitVec.zero_add]

theorem add_carry_iff (lhs rhs : Byte) :
    (getResult false lhs rhs).carry = true ↔ lhs.toNat + rhs.toNat ≥ 256 := getResult_carry_iff false lhs rhs

theorem add_zero_iff (lhs rhs : Byte) :
    (getResult false lhs rhs).zero = true ↔ (lhs.toNat + rhs.toNat) % 256 = 0 := by
  rw [getResult_zero_iff, ← BitVec.toNat_inj, getResult_value_toNat]
  rfl

end Sys2Proof.Machine

open Sys2Proof Sys2Proof.Machine

/-- Settles O8: `get_result` adds its right operand, which SUBTRACT mode negates. -/
theorem aluClosedForms : Obligations.AluClosedForms := fun lhs rhs =>
  ⟨⟨getResult_value false lhs rhs, add_carry_iff lhs rhs, add_zero_iff lhs rhs⟩,
    subtract_value lhs rhs, subtract_carry_iff lhs rhs, subtract_zero_iff lhs rhs⟩

end

section
/-! The micro-operations: what each does to the state where it does not stop, and where it stops (rule R128). -/

namespace Sys2Proof

/-- The micro-operations that read A, and fault on an unwritten one (rules R118, R120). -/
abbrev MicroOp.ReadsA (m : MicroOp) : Prop := m = .aToBus ∨ m = .aluToBus

/-- The micro-operations that read the flag store, and fault on an unwritten one (rules R232, R233). -/
abbrev MicroOp.ReadsFlags (m : MicroOp) : Prop := m = .busToPcIfCarry ∨ m = .busToPcIfZero

namespace Machine

/-- The conditional jump where it does not fault: PC takes the bus where the persisted flag is true. -/
def setPcIf (flag : FlagPair → Bool) (s : State) : State := s.setPc (if s.fs.any flag then pcOf s.bus else s.pc)

/-- The state change of a micro-operation, its faults left out; `applyMicroOp_eq` ties it to the model. -/
def microOpEffect (m : MicroOp) (s : State) : State :=
  match m with
  | .pcToBus => pcToBus s
  | .irDataToBus => operandToBus (operandBits s.ir) s
  | .aToBus => aToBus s
  | .memToBus => memToBus s
  | .aluToBus => aluToBus s
  | .busToMar => busToMar s
  | .busToIr => busToIr s
  | .busToA => busToA s
  | .busToB => busToB s
  | .busToMem => busToMem s
  | .busToPc => busToPc s
  | .busToOut => busToOut s
  | .pcAdvance => pcAdvance s
  | .storeFlags => storeFlags s
  | .setSubtract => setSubtract s
  | .resetSubtract => resetSubtract s
  | .halt => halt s
  | .busToPcIfCarry => setPcIf FlagPair.carry s
  | .busToPcIfZero => setPcIf FlagPair.zero s

theorem aUnwritten_iff {p : Config.Params} {s : State} :
    aUnwritten p s = true ↔ p.aResetValue = none ∧ s.aWritten = false := by
  simp [aUnwritten]

theorem readingA_eq (p : Config.Params) (f : State → State) (s : State) :
    readingA p f s = if aUnwritten p s = true then .fault .readUnwrittenA else .next (f s) := rfl

theorem jumpIf_eq (flag : FlagPair → Bool) (s : State) :
    jumpIf flag s = if s.fs = none then .fault .readUnwrittenFlags else .next (setPcIf flag s) := by
  unfold jumpIf
  cases hfs : s.fs with
  | none => rfl
  | some f =>
    simp only [setPcIf, hfs, Option.any_some]
    cases flag f <;> rfl

/-- What a micro-operation answers: one of the two model-only faults, or its effect (rules R118, R120, R232, R233). -/
theorem applyMicroOp_eq (p : Config.Params) (m : MicroOp) (s : State) :
    applyMicroOp p m s =
      if m.ReadsA ∧ aUnwritten p s = true then .fault .readUnwrittenA
      else if m.ReadsFlags ∧ s.fs = none then .fault .readUnwrittenFlags
      else .next (microOpEffect m s) := by
  cases m with
  | aToBus => simp [MicroOp.ReadsA, MicroOp.ReadsFlags, applyMicroOp, readingA_eq, microOpEffect]
  | aluToBus => simp [MicroOp.ReadsA, MicroOp.ReadsFlags, applyMicroOp, readingA_eq, microOpEffect]
  | busToPcIfCarry => simp [MicroOp.ReadsA, MicroOp.ReadsFlags, applyMicroOp, jumpIf_eq, microOpEffect]
  | busToPcIfZero => simp [MicroOp.ReadsA, MicroOp.ReadsFlags, applyMicroOp, jumpIf_eq, microOpEffect]
  | _ => rfl

/-- A micro-operation that answers a next state met neither fault, and answers its effect. -/
theorem applyMicroOp_eq_next {p : Config.Params} {m : MicroOp} {s t : State} :
    applyMicroOp p m s = .next t ↔
      ¬(m.ReadsA ∧ aUnwritten p s = true) ∧ ¬(m.ReadsFlags ∧ s.fs = none) ∧ microOpEffect m s = t := by
  rw [applyMicroOp_eq]
  split
  · next hA => simp [hA]
  · split
    · next hF => simp [hF]
    · next hA hF => simp [hA, hF]

theorem microOpEffect_of_next {p : Config.Params} {m : MicroOp} {s t : State} (h : applyMicroOp p m s = .next t) :
    microOpEffect m s = t := (applyMicroOp_eq_next.1 h).2.2

/-- A fault of a micro-operation is one of the two of rule R256. -/
theorem applyMicroOp_fault {p : Config.Params} {m : MicroOp} {s : State} {r : Fault}
    (h : applyMicroOp p m s = .fault r) : r = .readUnwrittenA ∨ r = .readUnwrittenFlags := by
  rw [applyMicroOp_eq] at h
  split at h
  · exact .inl (Host.Outcome.fault.inj h).symm
  · split at h
    · exact .inr (Host.Outcome.fault.inj h).symm
    · exact nomatch h

/-! The frame: which micro-operations write a field (rule R128, column "writes"). -/

theorem microOpEffect_a {m : MicroOp} (s : State) (h : m ≠ .busToA) :
    (microOpEffect m s).a = s.a ∧ (microOpEffect m s).aWritten = s.aWritten := by
  cases m with
  | busToA => exact absurd rfl h
  | _ => exact ⟨rfl, rfl⟩

theorem microOpEffect_b {m : MicroOp} (s : State) (h : m ≠ .busToB) : (microOpEffect m s).b = s.b := by
  cases m with
  | busToB => exact absurd rfl h
  | _ => rfl

theorem microOpEffect_mar {m : MicroOp} (s : State) (h : m ≠ .busToMar) : (microOpEffect m s).mar = s.mar := by
  cases m with
  | busToMar => exact absurd rfl h
  | _ => rfl

theorem microOpEffect_ir {m : MicroOp} (s : State) (h : m ≠ .busToIr) : (microOpEffect m s).ir = s.ir := by
  cases m with
  | busToIr => exact absurd rfl h
  | _ => rfl

theorem microOpEffect_pc {m : MicroOp} (s : State) (hadv : m ≠ .pcAdvance) (hset : m ≠ .busToPc)
    (hflags : ¬m.ReadsFlags) : (microOpEffect m s).pc = s.pc := by
  cases m with
  | pcAdvance => exact absurd rfl hadv
  | busToPc => exact absurd rfl hset
  | busToPcIfCarry => exact absurd (.inl rfl) hflags
  | busToPcIfZero => exact absurd (.inr rfl) hflags
  | _ => rfl

theorem microOpEffect_mem {m : MicroOp} (s : State) (h : m ≠ .busToMem) : (microOpEffect m s).mem = s.mem := by
  cases m with
  | busToMem => exact absurd rfl h
  | _ => rfl

theorem microOpEffect_aluFlags {m : MicroOp} (s : State) (h : m ≠ .aluToBus) :
    (microOpEffect m s).aluZero = s.aluZero ∧ (microOpEffect m s).aluCarry = s.aluCarry := by
  cases m with
  | aluToBus => exact absurd rfl h
  | _ => exact ⟨rfl, rfl⟩

theorem microOpEffect_fs {m : MicroOp} (s : State) (h : m ≠ .storeFlags) :
    (microOpEffect m s).fs = s.fs ∧ (microOpEffect m s).fsTrace = s.fsTrace := by
  cases m with
  | storeFlags => exact absurd rfl h
  | _ => exact ⟨rfl, rfl⟩

theorem microOpEffect_outTrace {m : MicroOp} (s : State) (h : m ≠ .busToOut) :
    (microOpEffect m s).outTrace = s.outTrace := by
  cases m with
  | busToOut => exact absurd rfl h
  | _ => rfl

theorem microOpEffect_halted {m : MicroOp} (s : State) (h : m ≠ .halt) :
    (microOpEffect m s).halted = s.halted := by
  cases m with
  | halt => exact absurd rfl h
  | _ => rfl

@[simp] theorem microOpEffect_useq (m : MicroOp) (s : State) : (microOpEffect m s).useq = s.useq := by
  cases m <;> rfl

@[simp] theorem microOpEffect_started (m : MicroOp) (s : State) : (microOpEffect m s).started = s.started := by
  cases m <;> rfl

@[simp] theorem microOpEffect_outcome (m : MicroOp) (s : State) : (microOpEffect m s).outcome = s.outcome := by
  cases m <;> rfl

/-- The ALU mode that a micro-operation leaves, from the mode it finds (rules R122, R123). -/
def modeAfter (mode : Bool) (m : MicroOp) : Bool :=
  if m = .setSubtract then true else if m = .resetSubtract then false else mode

@[simp] theorem microOpEffect_aluSub (m : MicroOp) (s : State) :
    (microOpEffect m s).aluSub = modeAfter s.aluSub m := by
  cases m <;> rfl

theorem modeAfter_of_ne {m : MicroOp} (mode : Bool) (hset : m ≠ .setSubtract) (hreset : m ≠ .resetSubtract) :
    modeAfter mode m = mode := by
  rw [modeAfter, if_neg hset, if_neg hreset]

/-! The bus roles (rule R128, column "bus role"). -/

/-- A writer drives the bus with a value of its own, and writes at most the ALU flags beside it. -/
theorem microOpEffect_of_writer {m : MicroOp} (s : State) (h : m.busRole = .writer) :
    (∀ v, microOpEffect m { s with bus := v } = microOpEffect m s) ∧
    microOpEffect m s = { s with
      bus := (microOpEffect m s).bus, aluZero := (microOpEffect m s).aluZero,
      aluCarry := (microOpEffect m s).aluCarry } := by
  cases m with
  | pcToBus | irDataToBus | aToBus | memToBus | aluToBus => exact ⟨fun _ => rfl, rfl⟩
  | _ => exact nomatch h

theorem microOpEffect_bus_of_destructive {m : MicroOp} (s : State) (h : m.busRole = .readerDestructive) :
    (microOpEffect m s).bus = 0 := by
  cases m with
  | busToMar | busToIr | busToA => rfl
  | _ => exact nomatch h

theorem microOpEffect_bus_of_peek_or_off {m : MicroOp} (s : State)
    (h : m.busRole = .readerPeek ∨ m.busRole = .offBus) : (microOpEffect m s).bus = s.bus := by
  cases m with
  | pcToBus | irDataToBus | aToBus | memToBus | aluToBus | busToMar | busToIr | busToA => simp [MicroOp.busRole] at h
  | _ => rfl

theorem busRole_destructive_iff (m : MicroOp) :
    m.busRole = .readerDestructive ↔ m = .busToMar ∨ m = .busToIr ∨ m = .busToA := by
  cases m <;> decide

end Machine

end Sys2Proof

open Sys2Proof Sys2Proof.Machine

/-- Settles O5: each operation is its setters (the `_eq` lemmas of Laws/Ops), and three micro-operations have the
destructive role. -/
theorem busProtocol : Obligations.BusProtocol := fun s v =>
  ⟨busWrite_eq v s, busRead_eq s, busReadReset_eq s, rfl, busToMar_eq s, busToIr_eq s, busToA_eq s,
    busRole_destructive_iff⟩

/-- Settles O6. -/
theorem programCounterAdvanceAndSet : Obligations.ProgramCounterAdvanceAndSet := by
  refine fun s v => ⟨⟨_, pcAdvance_eq s, ?advance⟩, ?wraps, ⟨_, pcSet_eq v s, ?masks⟩⟩
  case advance => simp; omega
  case wraps => intro h; simp [h]
  case masks => rw [pcOf, zext8_toNat, operandBits_toNat]

/-- Settles O9: a next state is the effect of the micro-operation, whose bus role the three lemmas on `busRole`
give; a writer's faults do not read the bus either. -/
theorem microOpKeepsItsBusRole : Obligations.MicroOpKeepsItsBusRole := by
  intro p m s t h
  obtain ⟨hA, hF, rfl⟩ := applyMicroOp_eq_next.1 h
  cases hrole : m.busRole with
  | writer =>
    obtain ⟨hbus, hframe⟩ := microOpEffect_of_writer s hrole
    exact ⟨fun v => applyMicroOp_eq_next.2 ⟨hA, hF, hbus v⟩, hframe⟩
  | readerDestructive => exact microOpEffect_bus_of_destructive s hrole
  | readerPeek => exact microOpEffect_bus_of_peek_or_off s (.inl hrole)
  | offBus => exact microOpEffect_bus_of_peek_or_off s (.inr hrole)

/-- Settles O10: the frame of `microOpEffect`, field by field. -/
theorem eachFieldHasItsOwnWriters : Obligations.EachFieldHasItsOwnWriters := by
  intro p m s t h
  obtain rfl := microOpEffect_of_next h
  refine ⟨microOpEffect_a s, microOpEffect_b s, microOpEffect_mar s, microOpEffect_ir s,
    fun hadv hset hcarry hzero => microOpEffect_pc s hadv hset (not_or.2 ⟨hcarry, hzero⟩), microOpEffect_mem s,
    microOpEffect_aluFlags s, fun hset hreset => ?mode, microOpEffect_fs s, microOpEffect_outTrace s,
    microOpEffect_halted s, microOpEffect_useq m s, microOpEffect_started m s, microOpEffect_outcome m s⟩
  case mode => rw [microOpEffect_aluSub, modeAfter_of_ne _ hset hreset]

/-- Settles O11: `applyMicroOp_eq`, with "unwritten" spelled out. -/
theorem microOpsSucceedButForModelFaults : Obligations.MicroOpsSucceedButForModelFaults := by
  intro p m s
  simp only [applyMicroOp_eq, aUnwritten_iff]
  split
  · rfl
  · split
    · rfl
    · exact ⟨_, rfl⟩

/-- Settles O12: MAR's low four bits are the cell it selects (`cellOf_eq_mod`), and the laws of `Memory.write` give
the store. -/
theorem memoryAccessUsesLowFourBitsOfMar : Obligations.MemoryAccessUsesLowFourBitsOfMar := by
  refine ⟨fun p s hwf => ?access, fun p s hinv hstarted => Nat.mod_eq_of_lt (hinv.marInRange hstarted)⟩
  case access =>
    rw [← cellOf_eq_mod]
    exact ⟨rfl, _, rfl, Memory.wf_write (cellOf_lt s.mar) hwf, Memory.read_write_self hwf,
      fun a ha => Memory.read_write_ne ha.symm⟩

end

section
/-! The control words of the ROM (rules R139, R145, R146), and the ROM's entries as the sequencer walks them. -/

namespace Sys2Proof.Machine

theorem mem_romWords_of_getElem? {p : Config.Params} {op : Nibble} {k : Nat} {cw : ControlWord}
    (h : (rom p op)[k]? = some cw) : cw ∈ romWords := mem_romWords (List.mem_of_getElem? h)

theorem romWord_ne_nil : ∀ cw ∈ romWords, cw ≠ [] := by decide

/-- IR and the PC's advance belong to the fetch: no word of the ROM has them (rules R25, R31). -/
theorem romWord_not_fetching : ∀ cw ∈ romWords, ∀ m ∈ cw, m ≠ .busToIr ∧ m ≠ .pcAdvance := by decide

/-- The words of the ROM and of the fetch are well formed, and a reader before any writer is `BusToOut`, which OUT's
word has without a writer (rules R139, R145). -/
theorem word_wellFormed : ∀ cw ∈ fetch1Word :: fetch2Word :: romWords,
    ControlWord.wellFormed cw = true ∧
    ∀ m, m ∈ cw.takeWhile (fun m => !m.isWriter) → m.isReader = true → m = .busToOut := by decide

/-- The one word with `SetSubtract` is SUB's third (rule R146). -/
theorem romWord_setSubtract : ∀ cw ∈ romWords, .setSubtract ∈ cw →
    cw = [.setSubtract, .aluToBus, .busToA, .storeFlags, .resetSubtract] := by decide

/-- Every word of the ROM ends in ADD mode (rule R146). -/
theorem romWord_restores_addMode : ∀ cw ∈ romWords, cw.foldl modeAfter false = false := by decide

/-- Of the parameters the ROM reads `EXT_COND_JUMP` alone (rule R148), so that a fact about all its entries is a
finite one. -/
theorem rom_eq_of_extCondJump (p : Config.Params) (op : Nibble) :
    rom p op = rom { Config.machine with extCondJump := p.extCondJump } op := rfl

theorem rom_setSubtract {p : Config.Params} {op : Nibble} {cw : ControlWord} (h : cw ∈ rom p op)
    (hs : .setSubtract ∈ cw) : op = 3 := by
  have hall : ∀ (ext : Bool) (op : Nibble), ∀ cw ∈ rom { Config.machine with extCondJump := ext } op,
      .setSubtract ∈ cw → op = 3 := by decide
  rw [rom_eq_of_extCondJump] at h
  exact hall _ op cw h hs

/-- Only the extension's ROM reads the flag store (rule R148). -/
theorem rom_readsFlags {p : Config.Params} {op : Nibble} {cw : ControlWord} {m : MicroOp} (h : cw ∈ rom p op)
    (hm : m ∈ cw) (hf : m.ReadsFlags) : p.extCondJump = true := by
  have hall : ∀ (ext : Bool) (op : Nibble), ∀ cw ∈ rom { Config.machine with extCondJump := ext } op,
      ∀ m ∈ cw, m.ReadsFlags → ext = true := by decide
  rw [rom_eq_of_extCondJump] at h
  exact hall _ op cw h m hm hf

/-- The mode that the micro-operations of a list leave, from the mode they find. -/
theorem applyOps_aluSub {p : Config.Params} {ops : List MicroOp} {s t : State} (h : applyOps p ops s = .next t) :
    t.aluSub = ops.foldl modeAfter s.aluSub := by
  induction ops generalizing s with
  | nil => rw [Host.Outcome.next.inj h]; rfl
  | cons m ops ih =>
    obtain ⟨u, hu, ht⟩ := andThen_eq_next.1 h
    obtain rfl := microOpEffect_of_next hu
    rw [ih ht, microOpEffect_aluSub, List.foldl_cons]

end Sys2Proof.Machine

open Sys2Proof Sys2Proof.Machine

/-- Settles O14. -/
theorem romWordsAreWellFormed : Obligations.RomWordsAreWellFormed := by
  intro p op cw h
  refine word_wellFormed cw ?_
  rcases h with h | rfl | rfl
  · simp [mem_romWords h]
  · simp
  · simp

/-- Settles O15: the word with `SetSubtract` is known (`romWord_setSubtract`), and `applyOps_aluSub` computes the
mode that a word leaves. -/
theorem romRestoresAddMode : Obligations.RomRestoresAddMode := by
  refine fun p op cw h => ⟨rom_setSubtract h, fun hs => ?placed, fun s t hs ht => ?restored⟩
  case placed => exact ⟨[], [], [.busToA, .storeFlags], [], romWord_setSubtract cw (mem_romWords h) hs⟩
  case restored =>
    obtain ⟨-, ht⟩ := checkedWord_eq_next.1 ht
    rw [applyOps_aluSub ht, hs]
    exact romWord_restores_addMode cw (mem_romWords h)

end

section
/-! One tick: what it can answer, and what it leaves unchanged (rules R160 to R166). -/

namespace Sys2Proof.Machine

/-- The sequencer is at EXECUTE(k, o), and micro-operation `m` of word `cw` stands there in the entry of IR's opcode
(rule R164). -/
structure AtMicroOp (p : Config.Params) (s : State) (k o : Nat) (cw : ControlWord) (m : MicroOp) : Prop where
  useq : s.useq = .execute k o
  word : (rom p (opcodeBits s.ir))[k]? = some cw
  op : cw[o]? = some m

section AtMicroOp

variable {p : Config.Params} {s : State} {k o : Nat} {cw : ControlWord} {m : MicroOp} (hat : AtMicroOp p s k o cw m)

include hat

theorem AtMicroOp.mem_rom : cw ∈ rom p (opcodeBits s.ir) := List.mem_of_getElem? hat.word

theorem AtMicroOp.mem_romWords : cw ∈ romWords := Machine.mem_romWords hat.mem_rom

theorem AtMicroOp.mem_word : m ∈ cw := List.mem_of_getElem? hat.op

theorem AtMicroOp.ne_busToIr : m ≠ .busToIr := (romWord_not_fetching cw hat.mem_romWords m hat.mem_word).1

theorem AtMicroOp.ne_pcAdvance : m ≠ .pcAdvance := (romWord_not_fetching cw hat.mem_romWords m hat.mem_word).2

/-- Without the extension no micro-operation of the ROM reads the flag store. -/
theorem AtMicroOp.not_readsFlags (hext : p.extCondJump = false) : ¬m.ReadsFlags :=
  fun hf => absurd (rom_readsFlags hat.mem_rom hat.mem_word hf) (by simp [hext])

theorem AtMicroOp.tick_eq (ho : s.outcome = .none) :
    tick p s = andThen (applyMicroOp p m (s.setStarted true)) fun t =>
      .next (t.setUseq (nextUseq (rom p (opcodeBits s.ir)) cw k o t.halted)) :=
  tick_execute ho hat.useq hat.word hat.op

end AtMicroOp

/-- The ways a tick goes on to a next state, with the state it leaves. -/
inductive TickNext (p : Config.Params) (s : State) : State → Prop where
  | fetch1 (hu : s.useq = .fetch1) : TickNext p s (afterFetch1 s)
  | fetch2 (hu : s.useq = .fetch2) : TickNext p s (afterFetch2 s)
  | decode (hu : s.useq = .decode) :
    TickNext p s ((s.setStarted true).setUseq (if (rom p (opcodeBits s.ir)).isEmpty then .fetch1 else .execute 0 0))
  | execute {k o : Nat} {cw : ControlWord} {m : MicroOp} (hat : AtMicroOp p s k o cw m) :
    TickNext p s ((microOpEffect m (s.setStarted true)).setUseq
      (nextUseq (rom p (opcodeBits s.ir)) cw k o (microOpEffect m (s.setStarted true)).halted))
  | halted (hu : s.useq = .halted) : TickNext p s s

theorem tickNext_of_tick {p : Config.Params} {s t : State} (h : tick p s = .next t) : TickNext p s t := by
  obtain ⟨-, ⟨hu, rfl⟩ | ⟨hu, rfl⟩ | ⟨hu, -, rfl⟩ | ⟨k, o, cw, m, u, hu, hw, hm, happly, rfl⟩ | ⟨hu, rfl⟩⟩ :=
    tick_next_cases h
  · exact .fetch1 hu
  · exact .fetch2 hu
  · exact .decode hu
  · obtain rfl := microOpEffect_of_next happly
    exact .execute ⟨hu, hw, hm⟩
  · exact .halted hu

/-- EXECUTE where the entry has no micro-operation is where a tick answers `noMicroOp` (log entry 8). -/
theorem tick_execute_noMicroOp {p : Config.Params} {s : State} {k o : Nat} (ho : s.outcome = .none)
    (hu : s.useq = .execute k o) (hnone : ∀ cw m, ¬AtMicroOp p s k o cw m) : tick p s = .fault .noMicroOp := by
  rw [tick, unlessStopped_none ho, tickRunning, hu]
  simp only [tickExecute, State.setStarted_ir]
  split
  · rfl
  · next cw hw =>
    split
    · rfl
    · next m hm => exact absurd ⟨hu, hw, hm⟩ (hnone cw m)

/-- A sequence whose second transition does not fault faults in the first. -/
theorem andThen_eq_fault {x : Host.Outcome State Fault Refusal} {f : State → Host.Outcome State Fault Refusal}
    {r : Fault} (hf : ∀ u, f u ≠ .fault r) (h : andThen x f = .fault r) : x = .fault r := by
  cases x with
  | next u => exact absurd h (hf u)
  | fault r' => exact h
  | refused r' => exact nomatch h

/-- A tick that faults is at a micro-operation that faults, or at EXECUTE where the entry has none. -/
theorem tick_fault_cases {p : Config.Params} {s : State} {r : Fault} (ho : s.outcome = .none)
    (h : tick p s = .fault r) :
    (∃ k o cw m, AtMicroOp p s k o cw m ∧ applyMicroOp p m (s.setStarted true) = .fault r) ∨ r = .noMicroOp := by
  cases hu : s.useq with
  | fetch1 => exact nomatch (tick_fetch1 ho hu).symm.trans h
  | fetch2 => exact nomatch (tick_fetch2 ho hu).symm.trans h
  | decode =>
    rw [tick_decode ho hu, tickDecode] at h
    split at h <;> exact nomatch h
  | execute k o =>
    by_cases hsome : ∃ cw m, AtMicroOp p s k o cw m
    · obtain ⟨cw, m, hat⟩ := hsome
      rw [hat.tick_eq ho] at h
      exact .inl ⟨k, o, cw, m, hat, andThen_eq_fault (by simp) h⟩
    · have hfault := tick_execute_noMicroOp ho hu fun cw m hat => hsome ⟨cw, m, hat⟩
      exact .inr (Host.Outcome.fault.inj (h.symm.trans hfault))
  | halted => exact nomatch (tick_halted ho hu).symm.trans h

theorem tick_decode_refused {p : Config.Params} {s : State} (ho : s.outcome = .none) (hu : s.useq = .decode)
    (h : p.reservedPolicy = .refuse ∧ reservedOpcode p (opcodeBits s.ir) = true) :
    tick p s = .refused (.reservedOpcode (opcodeBits s.ir)) := by
  rw [tick_decode ho hu, tickDecode]
  exact if_pos h

theorem tick_decode_next {p : Config.Params} {s : State} (ho : s.outcome = .none) (hu : s.useq = .decode)
    (h : ¬(p.reservedPolicy = .refuse ∧ reservedOpcode p (opcodeBits s.ir) = true)) :
    tick p s = .next ((s.setStarted true).setUseq
      (if (rom p (opcodeBits s.ir)).isEmpty then .fetch1 else .execute 0 0)) := by
  rw [tick_decode ho hu, tickDecode]
  exact if_neg h

/-- The opcodes whose entry is empty are NOP's and the reserved ones (rules R144, R160). -/
theorem rom_isEmpty_iff (p : Config.Params) (op : Nibble) :
    (rom p op).isEmpty = true ↔ op = 0 ∨ reservedOpcode p op = true := by
  have hall : ∀ (ext : Bool) (op : Nibble), (rom { Config.machine with extCondJump := ext } op).isEmpty = true ↔
      op = 0 ∨ reservedOpcode { Config.machine with extCondJump := ext } op = true := by decide
  exact hall p.extCondJump op

theorem reservedOpcode_iff (p : Config.Params) (op : Nibble) :
    reservedOpcode p op = true ↔ (if p.extCondJump then 9 else 7) ≤ op.toNat ∧ op.toNat ≤ 13 := by
  simp [reservedOpcode]

theorem microOpEffect_halted_of_halted (m : MicroOp) {s : State} (h : s.halted = true) :
    (microOpEffect m s).halted = true := by
  by_cases hm : m = .halt
  · rw [hm]; rfl
  · rw [microOpEffect_halted s hm, h]

/-- A recorded stop is answered by every tick (rule R173). -/
theorem tick_of_fault {p : Config.Params} {s : State} {r : Fault} (ho : s.outcome = .fault r) :
    tick p s = .fault r := by
  rw [tick, unlessStopped, ho]

theorem tick_of_refused {p : Config.Params} {s : State} {r : Refusal} (ho : s.outcome = .refused r) :
    tick p s = .refused r := by
  rw [tick, unlessStopped, ho]

/-- The state of an engine that is stopped is kept, its record included. -/
theorem tickRecorded_of_stopped {p : Config.Params} {s : State} (hs : s.started = true) (ho : s.outcome ≠ .none) :
    tickRecorded p s = s := by
  have hself : s.setStarted true = s := by rw [← hs]; rfl
  rw [tickRecorded, hself]
  exact recorded_of_stopped ho fun t h => ho (unlessStopped_eq_next.1 h).1

end Sys2Proof.Machine

open Sys2Proof Sys2Proof.Machine

/-- Settles O16: the fault of a tick is a micro-operation's, or `noMicroOp`. -/
theorem busConflictNeverFires : Obligations.BusConflictNeverFires := by
  intro p s ho h
  rcases tick_fault_cases ho h with ⟨k, o, cw, m, -, happly⟩ | hr
  · rcases applyMicroOp_fault happly with hr | hr <;> exact nomatch hr
  · exact nomatch hr

/-- Settles O18: the entry is empty for NOP and the reserved opcodes alone (`rom_isEmpty_iff`). -/
theorem decodeTickOnlyMovesTheSequencer : Obligations.DecodeTickOnlyMovesTheSequencer := by
  intro p s ho hu
  simp only [← reservedOpcode_iff, ← rom_isEmpty_iff]
  split
  · next h => exact tick_decode_refused ho hu h
  · next h => exact tick_decode_next ho hu h

/-- Settles O20: HALTED is a boundary that a tick leaves as it is, and no micro-operation clears the flag. -/
theorem haltedEngineIsLeftAlone : Obligations.HaltedEngineIsLeftAlone := by
  refine ⟨fun p s ho hu => ?halted, fun p s t h hh => ?kept⟩
  case halted =>
    have hb : atBoundary s = true := by simp [atBoundary, hu]
    exact ⟨tick_halted ho hu, ticksToBoundary_done _ (tick_halted ho hu) hb, step_halted ho hu,
      fun k => run_final k ho hu⟩
  case kept =>
    cases tickNext_of_tick h with
    | execute hat => exact microOpEffect_halted_of_halted _ hh
    | _ => exact hh

/-- Settles O21: the record is written on the state before the tick (`recorded_fault`, `recorded_refused`), and a
recorded stop is answered and kept; a halted engine has no stop. -/
theorem stopIsRecordedForGood : Obligations.StopIsRecordedForGood := by
  intro p s ho
  have hnothalted : tick p s ≠ .next s → s.useq ≠ .halted := mt (tick_halted ho)
  refine ⟨fun r h => ?fault, fun r h => ?refused⟩
  case fault =>
    have hrec : tickRecorded p s = { s with started := true, outcome := .fault r } := by
      rw [tickRecorded, h]
      exact recorded_fault r ho
    rw [hrec]
    exact ⟨rfl, hnothalted (by simp [h]), tick_of_fault rfl, tickRecorded_of_stopped rfl (by simp)⟩
  case refused =>
    have hrec : tickRecorded p s = { s with started := true, outcome := .refused r } := by
      rw [tickRecorded, h]
      exact recorded_refused r ho
    rw [hrec]
    exact ⟨rfl, hnothalted (by simp [h]), tick_of_refused rfl, tickRecorded_of_stopped rfl (by simp)⟩

/-- Settles O23: of the ways a tick goes on, FETCH2 alone writes IR, for no word of the ROM has `BusToIr`. -/
theorem irIsWrittenOnlyInFetch2 : Obligations.IrIsWrittenOnlyInFetch2 := by
  intro p s t h hu
  cases tickNext_of_tick h with
  | fetch2 hu' => exact absurd hu' hu
  | execute hat => exact microOpEffect_ir _ hat.ne_busToIr
  | _ => rfl

end

section
/-! Positions in the ROM, and the ticks of one control word (rules R138, R164, R165). -/

namespace Sys2Proof.Machine

/-- No entry has more than three words, and no word more than five micro-operations (rule R141). -/
theorem AtMicroOp.lt {p : Config.Params} {s : State} {k o : Nat} {cw : ControlWord} {m : MicroOp}
    (hat : AtMicroOp p s k o cw m) : k < 3 ∧ o < 5 := by
  have hwords : ∀ (ext : Bool) (op : Nibble), (rom { Config.machine with extCondJump := ext } op).length ≤ 3 := by
    decide
  have hops : ∀ cw ∈ romWords, cw.length ≤ 5 := by decide
  obtain ⟨hk, -⟩ := List.getElem?_eq_some_iff.1 hat.word
  obtain ⟨ho, -⟩ := List.getElem?_eq_some_iff.1 hat.op
  exact ⟨Nat.lt_of_lt_of_le hk (hwords p.extCondJump (opcodeBits s.ir)),
    Nat.lt_of_lt_of_le ho (hops cw hat.mem_romWords)⟩

/-- `BusToPc` is JMP's second micro-operation, and no other one (rule R25). -/
theorem AtMicroOp.eq_busToPc_iff {p : Config.Params} {s : State} {k o : Nat} {cw : ControlWord} {m : MicroOp}
    (hat : AtMicroOp p s k o cw m) : m = .busToPc ↔ opcodeBits s.ir = 6 ∧ s.useq = .execute 0 1 := by
  have hall : ∀ (ext : Bool) (op : Nibble), ∀ k < 3, ∀ o < 5,
      ∀ cw ∈ (rom { Config.machine with extCondJump := ext } op)[k]?, ∀ m ∈ cw[o]?,
        decide (m = .busToPc) = decide (op = 6 ∧ k = 0 ∧ o = 1) := by decide
  have hm := hall p.extCondJump (opcodeBits s.ir) k hat.lt.1 o hat.lt.2 cw hat.word m hat.op
  rw [decide_eq_decide.1 hm, hat.useq]
  simp

/-- A is read by ADD's and SUB's third words and by STA's second (rules R182, R202, R205). -/
theorem AtMicroOp.readsA_iff {p : Config.Params} {s : State} {k o : Nat} {cw : ControlWord} {m : MicroOp}
    (hat : AtMicroOp p s k o cw m) :
    m.ReadsA ↔ (opcodeBits s.ir = 2 ∧ s.useq = .execute 2 0) ∨ (opcodeBits s.ir = 3 ∧ s.useq = .execute 2 1) ∨
      (opcodeBits s.ir = 4 ∧ s.useq = .execute 1 0) := by
  have hall : ∀ (ext : Bool) (op : Nibble), ∀ k < 3, ∀ o < 5,
      ∀ cw ∈ (rom { Config.machine with extCondJump := ext } op)[k]?, ∀ m ∈ cw[o]?,
        decide m.ReadsA = decide (op = 2 ∧ k = 2 ∧ o = 0 ∨ op = 3 ∧ k = 2 ∧ o = 1 ∨ op = 4 ∧ k = 1 ∧ o = 0) := by
    decide
  have hm := hall p.extCondJump (opcodeBits s.ir) k hat.lt.1 o hat.lt.2 cw hat.word m hat.op
  rw [decide_eq_decide.1 hm, hat.useq]
  simp

theorem andThen_assoc (x : Host.Outcome State Fault Refusal) (f g : State → Host.Outcome State Fault Refusal) :
    andThen (andThen x f) g = andThen x fun s => andThen (f s) g := by
  cases x <;> rfl

/-- What the micro-operations do does not depend on the sequencer state, which they leave alone. -/
theorem applyMicroOp_setUseq (p : Config.Params) (m : MicroOp) (s : State) (u : USeq) :
    applyMicroOp p m (s.setUseq u) = andThen (applyMicroOp p m s) fun t => .next (t.setUseq u) := by
  have heffect : microOpEffect m (s.setUseq u) = (microOpEffect m s).setUseq u := by cases m <;> rfl
  have hunwritten : aUnwritten p (s.setUseq u) = aUnwritten p s := rfl
  simp only [applyMicroOp_eq, heffect, hunwritten, State.setUseq_fs]
  split
  · rfl
  · split <;> rfl

theorem applyOps_setUseq (p : Config.Params) (ops : List MicroOp) (s : State) (u : USeq) :
    applyOps p ops (s.setUseq u) = andThen (applyOps p ops s) fun t => .next (t.setUseq u) := by
  induction ops generalizing s with
  | nil => rfl
  | cons m ops ih => simp only [applyOps, applyMicroOp_setUseq, andThen_assoc, andThen_next, ih]

/-- The state that EXECUTE goes on from after a micro-operation: the engine has started, IR is as before, and no
stop is recorded. -/
theorem AtMicroOp.after {p : Config.Params} {s u : State} {k o : Nat} {cw : ControlWord} {m : MicroOp}
    (hat : AtMicroOp p s k o cw m) (happly : applyMicroOp p m (s.setStarted true) = .next u) :
    u.started = true ∧ u.ir = s.ir ∧ u.outcome = s.outcome := by
  obtain rfl := microOpEffect_of_next happly
  exact ⟨microOpEffect_started _ _, microOpEffect_ir _ hat.ne_busToIr, microOpEffect_outcome _ _⟩

/-- Without the extension a micro-operation stops at the read of an unwritten A alone; where it does not, the tick
goes on. -/
theorem AtMicroOp.tick_next {p : Config.Params} {s : State} {k o : Nat} {cw : ControlWord} {m : MicroOp}
    (hat : AtMicroOp p s k o cw m) (hext : p.extCondJump = false) (ho : s.outcome = .none)
    (hA : ¬(m.ReadsA ∧ aUnwritten p s = true)) :
    ∃ u : State, tick p s = .next (u.setUseq (nextUseq (rom p (opcodeBits s.ir)) cw k o u.halted)) ∧
      u.ir = s.ir ∧ u.outcome = .none := by
  have happly : applyMicroOp p m (s.setStarted true) = .next (microOpEffect m (s.setStarted true)) :=
    applyMicroOp_eq_next.2 ⟨hA, fun hF => hat.not_readsFlags hext hF.1, rfl⟩
  obtain ⟨-, hir, hou⟩ := hat.after happly
  exact ⟨_, by rw [hat.tick_eq ho, happly, andThen_next], hir, hou.trans ho⟩

/-- The tick that reads an unwritten A faults, if A has no reset value (rules R118, R120). -/
theorem AtMicroOp.tick_unwrittenA {p : Config.Params} {s : State} {k o : Nat} {cw : ControlWord} {m : MicroOp}
    (hat : AtMicroOp p s k o cw m) (ho : s.outcome = .none) (hm : m.ReadsA) (hA : aUnwritten p s = true) :
    tick p s = .fault .readUnwrittenA := by
  have hA' : aUnwritten p (s.setStarted true) = true := hA
  rw [hat.tick_eq ho, applyMicroOp_eq, if_pos ⟨hm, hA'⟩]
  rfl

theorem setStarted_of_started {s : State} (h : s.started = true) : s.setStarted true = s := by
  rw [← h]; rfl

/-- A tick at a micro-operation, and what follows it. -/
theorem AtMicroOp.tick_andThen {p : Config.Params} {s : State} {k o : Nat} {cw : ControlWord} {m : MicroOp}
    (hat : AtMicroOp p s k o cw m) (ho : s.outcome = .none) {f g : State → Host.Outcome State Fault Refusal}
    (hfg : ∀ u, u.started = true → u.ir = s.ir → u.outcome = .none →
      f (u.setUseq (nextUseq (rom p (opcodeBits s.ir)) cw k o u.halted)) = g u) :
    andThen (tick p s) f = andThen (applyMicroOp p m (s.setStarted true)) g := by
  rw [hat.tick_eq ho, andThen_assoc]
  cases happly : applyMicroOp p m (s.setStarted true) with
  | next u =>
    obtain ⟨hs, hir, hou⟩ := hat.after happly
    exact hfg u hs hir (hou.trans ho)
  | fault r => rfl
  | refused r => rfl

/-- The micro-operations of a word from (k, o) on take a tick each, by induction on what is left of the word. -/
theorem ticks_restOfWord {p : Config.Params} {k : Nat} {cw : ControlWord} (ops : List MicroOp) {s : State} {o : Nat}
    (ho : s.outcome = .none) (hu : s.useq = .execute k o) (hw : (rom p (opcodeBits s.ir))[k]? = some cw)
    (hops : cw.drop o = ops) (hne : ops ≠ []) :
    ticks p ops.length s = andThen (applyOps p ops (s.setStarted true)) fun t =>
      .next (t.setUseq (nextUseq (rom p (opcodeBits s.ir)) cw k (cw.length - 1) t.halted)) := by
  induction ops generalizing s o with
  | nil => exact absurd rfl hne
  | cons m rest ih =>
    have hlen : cw.length - o = rest.length + 1 := by rw [← List.length_drop, hops]; rfl
    have hm : cw[o]? = some m := by rw [← List.head?_drop, hops]; rfl
    have hrest : cw.drop (o + 1) = rest := by rw [← List.tail_drop, hops]; rfl
    rw [List.length_cons, ticks, applyOps, andThen_assoc]
    refine AtMicroOp.tick_andThen ⟨hu, hw, hm⟩ ho fun u hs hir hou => ?_
    by_cases hlast : rest = []
    · subst hlast
      obtain rfl : o = cw.length - 1 := by simp at hlen; omega
      rfl
    · have hmore : o + 1 < cw.length := by
        have := List.length_pos_iff.2 hlast
        omega
      rw [nextUseq, if_pos hmore]
      rw [ih (s := u.setUseq (.execute k (o + 1))) hou rfl (hir ▸ hw) hrest hlast, State.setUseq_ir, hir]
      have hstarted : (u.setUseq (.execute k (o + 1))).setStarted true = u.setUseq (.execute k (o + 1)) :=
        setStarted_of_started hs
      rw [hstarted, applyOps_setUseq, andThen_assoc]
      rfl

end Sys2Proof.Machine

open Sys2Proof Sys2Proof.Machine

/-- Settles O19: the word from its first micro-operation on (`ticks_restOfWord`); its last one moves on to the next
word or ends the instruction. -/
theorem wordAppliesOneMicroOpPerTick : Obligations.WordAppliesOneMicroOpPerTick := by
  intro p s k cw ho hu hw
  have hne : cw ≠ [] := romWord_ne_nil cw (mem_romWords_of_getElem? hw)
  have hlast : ¬cw.length - 1 + 1 < cw.length := by omega
  have hnext : ∀ h, nextUseq (rom p (opcodeBits s.ir)) cw k (cw.length - 1) h =
      if k + 1 < (rom p (opcodeBits s.ir)).length then .execute (k + 1) 0 else if h then .halted else .fetch1 :=
    fun h => if_neg hlast
  rw [applyWord, checkedWord_rom _ hw]
  simpa only [hnext] using ticks_restOfWord cw ho hu hw (List.drop_zero) hne

/-- Settles O24: outside the fetch only `BusToPc` writes PC, and it stands in JMP's word alone
(`AtMicroOp.eq_busToPc_iff`). -/
theorem pcIsWrittenOnlyInFetch2AndJmp : Obligations.PcIsWrittenOnlyInFetch2AndJmp := by
  intro p s t hext h hu
  cases tickNext_of_tick h with
  | fetch2 hu' => exact absurd hu' hu
  | fetch1 hu' | decode hu' =>
    rw [if_neg (by simp [hu'])]
    rfl
  | halted hu' => rw [if_neg (by simp [hu'])]
  | @execute k o cw m hat =>
    by_cases hm : m = .busToPc
    · rw [if_pos (hat.eq_busToPc_iff.1 hm), hm]
      exact (zext8_toNat _).trans (operandBits_toNat s.bus)
    · rw [if_neg (mt hat.eq_busToPc_iff.2 hm)]
      exact microOpEffect_pc _ hat.ne_pcAdvance hm (hat.not_readsFlags hext)

end

section
/-! Runs, and the host's load (rules R168, R169, R256, R280, R281). -/

namespace Sys2Proof.Machine

/-- What the end of a run says of the state it ends in (rules R168, R169). -/
def RunEnd.Sound : RunEnd → Prop
  | .final t => t.useq = .halted ∧ t.outcome = .none
  | .stopped t => t.outcome ≠ .none
  | .unfinished _ => True

/-- How a run ends, by induction on its fuel: the first state that is halted or stopped ends it, whatever fuel is
left. -/
theorem run_sound_and_stable (p : Config.Params) (k : Nat) (s : State) :
    (run p k s).Sound ∧ ((∀ u, run p k s ≠ .unfinished u) → ∀ j, run p (k + j) s = run p k s) := by
  induction k generalizing s with
  | zero =>
    by_cases ho : s.outcome = .none
    · by_cases hu : s.useq = .halted
      · simp [run_final _ ho hu, RunEnd.Sound, ho, hu]
      · simp [run_zero ho hu, RunEnd.Sound]
    · simp [run_stopped _ ho, RunEnd.Sound, ho]
  | succ k ih =>
    by_cases ho : s.outcome = .none
    · by_cases hu : s.useq = .halted
      · simp [run_final _ ho hu, RunEnd.Sound, ho, hu]
      · simpa only [run_succ k ho hu, Nat.succ_add k, run_succ _ ho hu] using ih (tickRecorded p s)
    · simp [run_stopped _ ho, RunEnd.Sound, ho]

/-- A refused load leaves the refusal on the state, which is otherwise as it was (rule R281). -/
theorem loadRecorded_started {s : State} (image : Vector Byte 16) (hs : s.started = true) (ho : s.outcome = .none) :
    loadRecorded image s = s.setOutcome (.refused .loadWhileRunning) := by
  rw [loadRecorded, load_started image hs, recorded_refused _ ho]

theorem loadRecorded_of_stopped {s : State} (image : Vector Byte 16) (hs : s.started = true) (ho : s.outcome ≠ .none) :
    loadRecorded image s = s := by
  rw [loadRecorded, load_started image hs]
  exact recorded_of_stopped ho (by simp)

/-- The memory a load leaves is in canonical form, and cell `i` holds byte `i` of the image (rule R281). -/
theorem wf_image (image : Vector Byte 16) : Memory.wf (Memory.writeAll [] 0 image.toList) = true :=
  Memory.wf_writeAll (by simp [Config.memorySize]) rfl

theorem read_image (image : Vector Byte 16) (i : Fin 16) :
    Memory.read (Memory.writeAll [] 0 image.toList) i.val = image[i] := by
  have h := Memory.read_writeAll (l := image.toList) (m := []) (a := 0) (i := i.val) (by simp [Config.memorySize]) rfl
    (by simp)
  simpa using h

theorem tick_started {p : Config.Params} {s t : State} (h : tick p s = .next t) (hu : s.useq ≠ .halted) :
    t.started = true := by
  cases tickNext_of_tick h with
  | halted hu' => exact absurd hu' hu
  | execute hat => exact microOpEffect_started _ _
  | _ => rfl

theorem tick_keeps_started {p : Config.Params} {s t : State} (h : tick p s = .next t) (hs : s.started = true) :
    t.started = true := by
  by_cases hu : s.useq = .halted
  · obtain ⟨ho, -⟩ := unlessStopped_eq_next.1 h
    obtain rfl : s = t := Host.Outcome.next.inj ((tick_halted ho hu).symm.trans h)
    exact hs
  · exact tick_started h hu

end Sys2Proof.Machine

open Sys2Proof Sys2Proof.Machine

/-- Settles O25, by induction on the fuel (`run_sound_and_stable`). -/
theorem runEndsFinalOnlyInHalted : Obligations.RunEndsFinalOnlyInHalted := by
  intro p k s t
  obtain ⟨hsound, hstable⟩ := run_sound_and_stable p k s
  refine ⟨fun h => ?final, fun h => ?stopped⟩
  case final =>
    rw [h] at hsound hstable
    exact ⟨hsound.1, hsound.2, hstable (by simp)⟩
  case stopped =>
    rw [h] at hsound hstable
    exact ⟨hsound, hstable (by simp)⟩

/-- Settles O50: reset's fields are its definition, and the load adds the image alone. -/
theorem resetThenLoadLeaves : Obligations.ResetThenLoadLeaves := by
  refine ⟨rfl, fun p image => ⟨_, load_unstarted image rfl, ?_⟩⟩
  have ha : ∀ v, p.aResetValue = some v → p.aResetValue.getD 0 = v := fun v hv => by rw [hv]; rfl
  exact ⟨rfl, rfl, rfl, rfl, read_image image, rfl, ha, rfl, rfl, rfl, rfl, rfl, rfl, rfl, rfl, rfl, rfl, rfl⟩

/-- Settles O51: the load replaces memory by what the image alone gives (`wf_image`, `read_image`), and every tick
marks the engine as started. -/
theorem loadReplacesMemoryBeforeTheFirstTick : Obligations.LoadReplacesMemoryBeforeTheFirstTick := by
  refine ⟨fun image s hs => ⟨_, load_unstarted image hs, wf_image image, read_image image, fun first => ?second⟩,
    fun image s => load_started image, fun p s t => tick_started, fun p s t => tick_keeps_started⟩
  case second =>
    rw [load_unstarted first hs, load_unstarted image hs, andThen_next]
    exact load_unstarted image hs

/-- Settles O58: the refusal is recorded (`loadRecorded_started`), and a recorded stop ends every tick, step and
run and outlives every load. -/
theorem loadRefusalIsRecordedForGood : Obligations.LoadRefusalIsRecordedForGood := by
  refine fun image s hs => ⟨fun ho => ?recorded, loadRecorded_of_stopped image hs⟩
  case recorded =>
    rw [loadRecorded_started image hs ho]
    have hstop : (s.setOutcome (.refused .loadWhileRunning)).outcome ≠ .none := by simp
    have htick : ∀ p : Config.Params, tick p (s.setOutcome (.refused .loadWhileRunning)) = .refused .loadWhileRunning :=
      fun p => tick_of_refused rfl
    exact ⟨rfl, fun p => ⟨htick p, tickRecorded_of_stopped hs hstop, ticksToBoundary_refused _ (htick p),
      fun k => run_stopped k hstop⟩, rfl, fun later => loadRecorded_of_stopped later hs hstop⟩

end

section
/-! What each instruction does, from its fetch to its whole next state (rules R180 to R225). -/

namespace Sys2Proof.Machine

/-- What the fetch of the byte `b` leaves (rules R161, R162). -/
def fetchedByte (b : Byte) (s : State) : State :=
  { s with
    mar := s.pc, ir := b, pc := BitVec.ofNat 8 ((s.pc.toNat + 1) % 16), bus := 0, useq := .decode, started := true }

theorem afterFetch_eq_fetchedByte (s : State) :
    afterFetch s = fetchedByte (Memory.read s.mem (s.pc.toNat % 16)) s := by
  rw [afterFetch, cellOf_eq_mod, fetchedByte]

/-- From FETCH1 the step runs the instruction of the byte at PC, from the state its fetch leaves (rule R167). -/
theorem step_of_byte {s : State} {b : Byte} (ho : s.outcome = .none) (hu : s.useq = .fetch1)
    (hb : Memory.read s.mem (s.pc.toNat % 16) = b) : step s = exec (decode b) (fetchedByte b s) := by
  rw [step_fetch1 ho hu, afterFetch_eq_fetchedByte, cellOf_eq_mod, hb]

/-- A byte of opcode `op` is that of `op` and its own operand. -/
theorem eq_instrByte_of_opcodeBits {b : Byte} {op : Nibble} (h : opcodeBits b = op) :
    b = instrByte op (operandBits b) := by
  rw [← h, instrByte_bits]

/-! The closed form of each meaning. -/

/-- Where the sequencer goes at the end of an entry (rule R165). -/
def endOfEntry (s : State) : USeq := if s.halted then .halted else .fetch1

/-- What ADD and SUB of cell n leave, for the ALU's answer `r` (rules R202, R203). -/
def withAluResult (n : Nibble) (r : AluResult) (s : State) : State :=
  { s with
    mar := zext8 n, b := Memory.read s.mem n.toNat, a := r.value, aWritten := true, bus := 0, aluZero := r.zero,
    aluCarry := r.carry, fs := some ⟨r.zero, r.carry⟩, fsTrace := s.fsTrace ++ [⟨r.zero, r.carry⟩],
    useq := endOfEntry s }

/-- The ALU's answer `r` on the bus and in the flags, A taking it, and the flag store (rules R116, R120, R121). -/
theorem aluToA_eq (s : State) {r : AluResult} (hr : getResult s.aluSub s.a s.b = r) :
    aluToA s = { s with
      a := r.value, aWritten := true, bus := 0, aluZero := r.zero, aluCarry := r.carry,
      fs := some ⟨r.zero, r.carry⟩, fsTrace := s.fsTrace ++ [⟨r.zero, r.carry⟩] } := by
  rw [aluToA, aluToBus_eq, hr]
  rfl

/-- The next state of each instruction, field by field; `exec_eq` ties it to the model. -/
def execEffect (i : Instr) (s : State) : State :=
  match i with
  | .lda n =>
    { s with
      mar := zext8 n, a := Memory.read s.mem n.toNat, aWritten := true, bus := 0, useq := endOfEntry s }
  | .add n => withAluResult n (getResult s.aluSub s.a (Memory.read s.mem n.toNat)) s
  | .sub n => { withAluResult n (getResult true s.a (Memory.read s.mem n.toNat)) s with aluSub := false }
  | .sta n =>
    { s with mem := Memory.write s.mem n.toNat s.a, mar := zext8 n, bus := s.a, useq := endOfEntry s }
  | .ldi n => { s with a := zext8 n, aWritten := true, bus := 0, useq := endOfEntry s }
  | .jmp n => { s with pc := zext8 n, bus := zext8 n, useq := endOfEntry s }
  | .out _ => { s with outTrace := s.outTrace ++ [s.bus], useq := endOfEntry s }
  | .hlt _ => { s with halted := true, useq := .halted }
  | .nop _ | .rsv7 _ | .rsv8 _ | .rsv9 _ | .rsvA _ | .rsvB _ | .rsvC _ | .rsvD _ => { s with useq := .fetch1 }

theorem exec_eq (i : Instr) (s : State) : exec i s = .next (execEffect i s) := by
  cases i with
  | lda n => rw [exec, execLda, memToBus_addressOperand, retire_busToA]; rfl
  | add n => rw [exec, execAdd, loadB, memToBus_addressOperand, aluToA_eq _ rfl]; rfl
  | sub n => rw [exec, execSub, loadB, memToBus_addressOperand, aluToA_eq _ rfl]; rfl
  | sta n => rw [exec, execSta, busToMem_eq, execEffect, ← cellOf_zext8 n]; rfl
  | ldi n => rw [exec, execLdi, retire_busToA, operandToBus_eq]; rfl
  | jmp n => rw [exec, execJmp, busToPc_eq, operandToBus_eq, State.setBus_bus, pcOf_zext8]; rfl
  | _ => rfl

theorem execEffect_of_next {i : Instr} {s t : State} (h : exec i s = .next t) : execEffect i s = t :=
  Host.Outcome.next.inj ((exec_eq i s).symm.trans h)

/-- An instruction whose entry is empty does nothing after its fetch (rules R221, R225). -/
theorem execEffect_of_rom_nil {i : Instr} (s : State) (h : rom Config.machine i.opcode = []) :
    execEffect i s = s.setUseq .fetch1 := by
  cases i with
  | lda n | add n | sub n | sta n | ldi n | jmp n | out n | hlt n => exact absurd h (List.cons_ne_nil _ _)
  | _ => rfl

/-! The results of the ALU in the words of rules R202 and R203. -/

theorem getResult_eq {sub zero carry : Bool} {lhs rhs value : Byte} (hv : (getResult sub lhs rhs).value = value)
    (hz : (getResult sub lhs rhs).zero = true ↔ zero = true)
    (hc : (getResult sub lhs rhs).carry = true ↔ carry = true) : getResult sub lhs rhs = ⟨value, zero, carry⟩ := by
  rw [← hv, ← Bool.eq_iff_iff.2 hz, ← Bool.eq_iff_iff.2 hc]

theorem getResult_add (lhs rhs : Byte) :
    getResult false lhs rhs = ⟨BitVec.ofNat 8 ((lhs.toNat + rhs.toNat) % 256),
      decide ((lhs.toNat + rhs.toNat) % 256 = 0), decide (lhs.toNat + rhs.toNat ≥ 256)⟩ := by
  refine getResult_eq ?value ?zero ?carry
  case value =>
    apply BitVec.eq_of_toNat_eq
    simp [getResult_value_toNat, aluOperand_toNat]
  case zero => rw [add_zero_iff, decide_eq_true_iff]
  case carry => rw [add_carry_iff, decide_eq_true_iff]

theorem getResult_subtract (lhs rhs : Byte) :
    getResult true lhs rhs = ⟨lhs - rhs, decide (lhs = rhs), decide (rhs ≠ 0 ∧ lhs.toNat ≥ rhs.toNat)⟩ := by
  refine getResult_eq (subtract_value lhs rhs) ?zero ?carry
  case zero => rw [subtract_zero_iff, decide_eq_true_iff]
  case carry => rw [subtract_carry_iff, decide_eq_true_iff]

/-! Halted engines. -/

theorem ticks_halted (p : Config.Params) (k : Nat) {s : State} (ho : s.outcome = .none) (hu : s.useq = .halted) :
    ticks p k s = .next s := by
  induction k with
  | zero => rfl
  | succ k ih => rw [ticks, tick_halted ho hu, andThen_next, ih]

theorem steps_halted (k : Nat) {s : State} (ho : s.outcome = .none) (hu : s.useq = .halted) :
    Safety.steps k s = .next s := by
  induction k with
  | zero => rfl
  | succ k ih => rw [Safety.steps, step_halted ho hu, andThen_next, ih]

end Sys2Proof.Machine

open Sys2Proof Sys2Proof.Machine Sys2Proof.Safety

/-- Settles O26. -/
theorem stepRunsTheDecodedInstruction : Obligations.StepRunsTheDecodedInstruction := by
  rintro s i ho hu rfl
  exact step_of_byte ho hu rfl

/-- Settles O27: the cell PC selects reads as the byte placed there. -/
theorem placedInstructionRunsNext : Obligations.PlacedInstructionRunsNext := by
  intro s nbits w i hwf hi
  obtain ⟨-, hdecode⟩ := Option.ite_none_right_eq_some.1 hi
  have hdecode : decode (tableByte nbits w) = i := Option.some.inj hdecode
  have hread : Memory.read (s.withFetchWord nbits w).mem (s.pc.toNat % 16) = tableByte nbits w := by
    rw [← cellOf_eq_mod]
    exact Memory.read_write_self hwf
  refine ⟨tableByte nbits w, hdecode, ?_⟩
  rw [← hdecode]
  exact step_of_byte rfl rfl hread

/-- Settles O35: `exec_eq`, the laws of `Memory.write`, and the fault of the second word's first micro-operation. -/
theorem staStoresA : Obligations.StaStoresA := by
  refine fun n s hwf => ⟨decode_encode (.sta n), rfl, cellOf_zext8 n,
    ⟨_, exec_eq (.sta n) s, rfl, Memory.wf_write n.isLt hwf, ?stored⟩, ?unwritten⟩
  case stored =>
    intro a ha
    obtain rfl : n.toNat = a := (cellOf_zext8 n).symm.trans ha
    exact ⟨Memory.read_write_self hwf, fun a' hne => Memory.read_write_ne hne.symm⟩
  case unwritten =>
    intro p hp hA ho hu hop
    have hat : AtMicroOp p s 1 0 [.aToBus, .busToMem] .aToBus := ⟨hu, by rw [hop]; rfl, rfl⟩
    exact hat.tick_unwrittenA ho (.inl rfl) (aUnwritten_iff.2 ⟨hp, hA⟩)

/-- Settles O37: ADD's closed form (`exec_eq`) in ADD mode (`getResult_add`); the third word reads A first. -/
theorem addAddsTheCell : Obligations.AddAddsTheCell := by
  refine fun n s hmode => ⟨decode_encode (.add n), rfl, ?result, ?unwritten⟩
  case result =>
    have hr := getResult_add s.a (Memory.read s.mem n.toNat)
    rw [← hmode] at hr
    rw [exec_eq, execEffect, hr]
    rfl
  case unwritten =>
    intro p hp hA ho hu hop
    have hat : AtMicroOp p s 2 0 [.aluToBus, .busToA, .storeFlags] .aluToBus := ⟨hu, by rw [hop]; rfl, rfl⟩
    exact hat.tick_unwrittenA ho (.inr rfl) (aUnwritten_iff.2 ⟨hp, hA⟩)

/-- Settles O38: SUB's closed form (`exec_eq`) with the ALU's answer (`getResult_subtract`); the third word reads A
second. -/
theorem subSubtractsTheCell : Obligations.SubSubtractsTheCell := by
  refine fun n s => ⟨decode_encode (.sub n), rfl, ?result, ?unwritten⟩
  case result =>
    rw [exec_eq, execEffect, getResult_subtract]
    rfl
  case unwritten =>
    intro p hp hA ho hu hop
    have hat : AtMicroOp p s 2 1 [.setSubtract, .aluToBus, .busToA, .storeFlags, .resetSubtract] .aluToBus :=
      ⟨hu, by rw [hop]; rfl, rfl⟩
    exact hat.tick_unwrittenA ho (.inr rfl) (aUnwritten_iff.2 ⟨hp, hA⟩)

/-- Settles O39. -/
theorem addRunsInTheModeItFinds : Obligations.AddRunsInTheModeItFinds :=
  fun n s => exec_eq (.add n) s

/-- Settles O40: the entries of NOP and the reserved opcodes are empty (`rom_isEmpty_iff`). -/
theorem nopAndReservedOnlyFetch : Obligations.NopAndReservedOnlyFetch := by
  refine ⟨fun x s i hi => ?meaning, fun s ho hu hop => ?step⟩
  case meaning =>
    have hrom : rom Config.machine i.opcode = [] := by
      simp only [List.mem_cons, List.not_mem_nil, or_false] at hi
      rcases hi with rfl | rfl | rfl | rfl | rfl | rfl | rfl | rfl <;> rfl
    exact ⟨hrom, by rw [exec_eq, execEffect_of_rom_nil s hrom]; rfl⟩
  case step =>
    have hreserved := hop.imp_right (reservedOpcode_iff Config.machine _).2
    have hrom := List.isEmpty_iff.1 ((rom_isEmpty_iff Config.machine _).2 hreserved)
    rw [step_of_byte ho hu rfl, exec_eq, execEffect_of_rom_nil _ (by rwa [opcode_decode]), ← hu]
    rfl

/-- Settles O41. -/
theorem jmpSetsPc : Obligations.JmpSetsPc :=
  fun n s => ⟨decode_encode (.jmp n), rfl, exec_eq (.jmp n) s⟩

/-- Settles O42: OUT's fetch clears the bus, and OUT emits what it finds there. -/
theorem outEmitsTheClearedBus : Obligations.OutEmitsTheClearedBus := by
  refine ⟨fun x s => ⟨decode_encode (.out x), rfl, rfl⟩, fun s ho hu hop => ?step⟩
  case step =>
    rw [step_of_byte ho hu (eq_instrByte_of_opcodeBits hop)]
    exact ⟨_, congrArg (exec · _) (decode_encode (.out _)), rfl, rfl, rfl⟩

/-- Settles O43. -/
theorem hltHalts : Obligations.HltHalts :=
  fun x _ => ⟨decode_encode (.hlt x), rfl, rfl⟩

/-- Settles O44: the step at an 0xFx byte is HLT, and its state is halted (`ticks_halted`, `steps_halted`). -/
theorem haltIsFinal : Obligations.HaltIsFinal := by
  refine ⟨rfl, fun s ho hu hop => ⟨_, ?step, rfl, fun k => ⟨ticks_halted _ k ho rfl, steps_halted k ho rfl⟩⟩⟩
  case step =>
    have hdecode : decode (Memory.read s.mem (s.pc.toNat % 16)) = .hlt (operandBits _) :=
      (congrArg decode (eq_instrByte_of_opcodeBits hop)).trans (decode_encode (.hlt _))
    rw [step_of_byte ho hu rfl, hdecode]
    rfl

end

section
/-! What the instructions leave unchanged, and two programs of one cell (rules R21 to R35, R53, R64, R169). -/

namespace Sys2Proof.Machine

section Frame

variable {i : Instr} (s : State)

theorem execEffect_aluFlags (hadd : ∀ n, i ≠ .add n) (hsub : ∀ n, i ≠ .sub n) :
    (execEffect i s).aluZero = s.aluZero ∧ (execEffect i s).aluCarry = s.aluCarry ∧ (execEffect i s).fs = s.fs ∧
      (execEffect i s).fsTrace = s.fsTrace := by
  cases i with
  | add n => exact absurd rfl (hadd n)
  | sub n => exact absurd rfl (hsub n)
  | _ => exact ⟨rfl, rfl, rfl, rfl⟩

theorem execEffect_mem (hsta : ∀ n, i ≠ .sta n) : (execEffect i s).mem = s.mem := by
  cases i with
  | sta n => exact absurd rfl (hsta n)
  | _ => rfl

theorem execEffect_a (hlda : i.opcode ≠ 1) (hadd : i.opcode ≠ 2) (hsub : i.opcode ≠ 3) (hldi : i.opcode ≠ 5) :
    (execEffect i s).a = s.a ∧ (execEffect i s).aWritten = s.aWritten := by
  cases i with
  | lda n => exact absurd rfl hlda
  | add n => exact absurd rfl hadd
  | sub n => exact absurd rfl hsub
  | ldi n => exact absurd rfl hldi
  | _ => exact ⟨rfl, rfl⟩

theorem execEffect_b (hadd : i.opcode ≠ 2) (hsub : i.opcode ≠ 3) : (execEffect i s).b = s.b := by
  cases i with
  | add n => exact absurd rfl hadd
  | sub n => exact absurd rfl hsub
  | _ => rfl

theorem execEffect_mar (hlda : i.opcode ≠ 1) (hadd : i.opcode ≠ 2) (hsub : i.opcode ≠ 3) (hsta : i.opcode ≠ 4) :
    (execEffect i s).mar = s.mar := by
  cases i with
  | lda n => exact absurd rfl hlda
  | add n => exact absurd rfl hadd
  | sub n => exact absurd rfl hsub
  | sta n => exact absurd rfl hsta
  | _ => rfl

theorem execEffect_pc (hjmp : i.opcode ≠ 6) : (execEffect i s).pc = s.pc := by
  cases i with
  | jmp n => exact absurd rfl hjmp
  | _ => rfl

theorem execEffect_outTrace (hout : i.opcode ≠ 14) : (execEffect i s).outTrace = s.outTrace := by
  cases i with
  | out x => exact absurd rfl hout
  | _ => rfl

theorem execEffect_halted (hhlt : i.opcode ≠ 15) : (execEffect i s).halted = s.halted := by
  cases i with
  | hlt x => exact absurd rfl hhlt
  | _ => rfl

theorem execEffect_aluSub (hsub : i.opcode ≠ 3) : (execEffect i s).aluSub = s.aluSub := by
  cases i with
  | sub n => exact absurd rfl hsub
  | _ => rfl

theorem execEffect_ir_started_outcome : (execEffect i s).ir = s.ir ∧ (execEffect i s).started = s.started ∧
    (execEffect i s).outcome = s.outcome := by
  cases i <;> exact ⟨rfl, rfl, rfl⟩

end Frame

/-- A step at a cell that holds a jump to itself is back at that cell, with memory as it was (rules R169, R222). -/
theorem step_jump_to_self {s : State} (ho : s.outcome = .none) (hu : s.useq = .fetch1) (hh : s.halted = false)
    (hpc : s.pc.toNat < 16) (hb : Memory.read s.mem s.pc.toNat = instrByte 6 (BitVec.ofNat 4 s.pc.toNat)) :
    ∃ t, step s = .next t ∧ t.outcome = .none ∧ t.useq = .fetch1 ∧ t.halted = false ∧ t.pc = s.pc ∧ t.mem = s.mem := by
  have htarget : zext8 (BitVec.ofNat 4 s.pc.toNat) = s.pc := by
    apply BitVec.eq_of_toNat_eq
    rw [zext8_toNat, BitVec.toNat_ofNat, Nat.mod_eq_of_lt hpc]
  have hb' : Memory.read s.mem (s.pc.toNat % 16) = encode (.jmp (BitVec.ofNat 4 s.pc.toNat)) := by
    rw [Nat.mod_eq_of_lt hpc, hb]
    rfl
  rw [step_of_byte ho hu hb', decode_encode, exec_eq, execEffect, htarget]
  exact ⟨_, rfl, ho, if_neg (by simp [fetchedByte, hh]), hh, rfl, rfl⟩

theorem steps_jump_to_self (k : Nat) {s : State} (ho : s.outcome = .none) (hu : s.useq = .fetch1)
    (hh : s.halted = false) (hpc : s.pc.toNat < 16)
    (hb : Memory.read s.mem s.pc.toNat = instrByte 6 (BitVec.ofNat 4 s.pc.toNat)) :
    ∃ t, Safety.steps k s = .next t ∧ t.useq = .fetch1 ∧ t.pc = s.pc := by
  induction k generalizing s with
  | zero => exact ⟨s, rfl, hu, rfl⟩
  | succ k ih =>
    obtain ⟨u, hstep, houtcome, huseq, hhalted, hpcu, hmem⟩ := step_jump_to_self ho hu hh hpc hb
    rw [Safety.steps, hstep, andThen_next, ← hpcu]
    exact ih houtcome huseq hhalted (hpcu ▸ hpc) (by rw [hmem, hpcu, hb])

end Sys2Proof.Machine

open Sys2Proof Sys2Proof.Machine Sys2Proof.Safety

/-- Settles O45. -/
theorem flagsChangedOnlyByAddAndSub : Obligations.FlagsChangedOnlyByAddAndSub := by
  intro i s t h
  obtain rfl := execEffect_of_next h
  exact execEffect_aluFlags s

/-- Settles O46: STA n writes cell n (`execEffect`), and no other instruction writes memory (`execEffect_mem`). -/
theorem memoryChangedOnlyBySta : Obligations.MemoryChangedOnlyBySta := by
  intro i s t h a ha
  obtain rfl := execEffect_of_next h
  by_cases hsta : ∃ n, i = .sta n
  · obtain ⟨n, rfl⟩ := hsta
    have hne : n.toNat ≠ a := by
      rintro rfl
      rcases ha with ha | ha
      · simp at ha
      · exact absurd n.isLt (Nat.not_lt.2 ha)
    exact Memory.read_write_ne hne
  · rw [execEffect_mem s (not_exists.1 hsta)]

/-- Settles O47: the frame, register by register. -/
theorem registersChangedOnlyByTheirInstructions : Obligations.RegistersChangedOnlyByTheirInstructions := by
  intro i s t h
  obtain rfl := execEffect_of_next h
  exact ⟨execEffect_a s, execEffect_b s, execEffect_mar s, execEffect_pc s, execEffect_outTrace s,
    execEffect_halted s, execEffect_aluSub s, execEffect_ir_started_outcome s⟩

/-- Settles O48: the cell written by STA reads as A's byte, which the later fetch therefore finds. -/
theorem storedByteIsWhatALaterFetchRuns : Obligations.StoredByteIsWhatALaterFetchRuns := by
  intro s n ho hu hwf hb
  have hstep : step s = exec (.sta n) (fetchedByte (instrByte 4 n) s) := by
    rw [step_of_byte ho hu hb]
    exact congrArg (exec · _) (decode_encode (.sta n))
  refine ⟨_, hstep.trans (exec_eq (.sta n) _), rfl, fun u hou huu hmem hpc => ?later⟩
  case later =>
    have hread : Memory.read u.mem (u.pc.toNat % 16) = s.a := by
      rw [hmem, hpc]
      exact Memory.read_write_self hwf
    exact step_of_byte hou huu hread

/-- Settles O49, by induction on the number of steps. -/
theorem jumpToItselfNeverHalts : Obligations.JumpToItselfNeverHalts :=
  fun _ ho hu hh hpc hb k => steps_jump_to_self k ho hu hh hpc hb

end

section
/-! The microcoded engine and the meanings: what the ticks from DECODE to the next instruction boundary do, under any
choice of the parameters, and that `exec` is what they do under the machine's (rules R160 to R167). -/

namespace Sys2Proof.Machine

/-- The micro-operations still to run from a sequencer state, by the entry `e`. -/
def restOfEntry (e : RomEntry) : USeq → List MicroOp
  | .execute k o => (e.drop k).flatten.drop o
  | _ => []

/-- A micro-operation at (k, o) is the first of those left, and the next sequencer state has the others. -/
theorem restOfEntry_execute {e : RomEntry} {k o : Nat} {cw : ControlWord} {m : MicroOp} (hw : e[k]? = some cw)
    (hm : cw[o]? = some m) (h : Bool) :
    restOfEntry e (.execute k o) = m :: restOfEntry e (nextUseq e cw k o h) := by
  obtain ⟨hk, rfl⟩ := List.getElem?_eq_some_iff.1 hw
  obtain ⟨ho, rfl⟩ := List.getElem?_eq_some_iff.1 hm
  have hrest : ∀ j, j ≤ e[k].length → restOfEntry e (.execute k j) = e[k].drop j ++ (e.drop (k + 1)).flatten := by
    intro j hj
    rw [restOfEntry, List.drop_eq_getElem_cons hk, List.flatten_cons, List.drop_append_of_le_length hj]
  rw [hrest o (Nat.le_of_lt ho), List.drop_eq_getElem_cons ho, List.cons_append, nextUseq]
  congr 1
  split
  · next hmore => rw [hrest (o + 1) (Nat.le_of_lt hmore)]
  · next hlast =>
    rw [List.drop_eq_nil_of_le (Nat.not_lt.1 hlast), List.nil_append]
    split
    · rfl
    · next hend =>
      rw [List.drop_eq_nil_of_le (Nat.not_lt.1 hend)]
      cases h <;> rfl

section AtMicroOp

variable {p : Config.Params} {s : State} {k o : Nat} {cw : ControlWord} {m : MicroOp} (hat : AtMicroOp p s k o cw m)

include hat

theorem AtMicroOp.restOfEntry_eq : ∃ rest, restOfEntry (rom p (opcodeBits s.ir)) s.useq = m :: rest ∧
    ∀ h, restOfEntry (rom p (opcodeBits s.ir)) (nextUseq (rom p (opcodeBits s.ir)) cw k o h) = rest := by
  rw [hat.useq]
  have hrest := restOfEntry_execute hat.word hat.op
  exact ⟨_, hrest false, fun h => List.tail_eq_of_cons_eq ((hrest h).symm.trans (hrest false))⟩

/-- After a micro-operation the instruction is at its end, or at another micro-operation of its entry, the words of
the ROM having no empty one among them. -/
theorem AtMicroOp.next_cases {u : State} (hir : u.ir = s.ir) :
    nextUseq (rom p (opcodeBits s.ir)) cw k o u.halted = endOfEntry u ∨
    ∃ k' o' cw' m', AtMicroOp p (u.setUseq (nextUseq (rom p (opcodeBits s.ir)) cw k o u.halted)) k' o' cw' m' := by
  rw [nextUseq]
  split
  · next hmore =>
    refine .inr ⟨k, o + 1, cw, cw[o + 1], rfl, ?_, List.getElem?_eq_getElem hmore⟩
    rw [State.setUseq_ir, hir, hat.word]
  · split
    · next hmore =>
      have hne := romWord_ne_nil _ (Machine.mem_romWords (List.getElem_mem hmore))
      refine .inr ⟨k + 1, 0, _, _, rfl, ?_, List.getElem?_eq_getElem (List.length_pos_iff.2 hne)⟩
      rw [State.setUseq_ir, hir, List.getElem?_eq_getElem hmore]
    · exact .inl rfl

end AtMicroOp

theorem atBoundary_endOfEntry (s : State) : atBoundary (s.setUseq (endOfEntry s)) = true := by
  rw [endOfEntry]
  cases s.halted <;> rfl

theorem not_execute_of_boundary {s : State} (hb : atBoundary s = true) (k o : Nat) : s.useq ≠ .execute k o := by
  intro hu
  simp [atBoundary, hu] at hb

theorem restOfEntry_of_boundary {e : RomEntry} {s : State} (hb : atBoundary s = true) : restOfEntry e s.useq = [] := by
  cases hu : s.useq with
  | execute k o => exact absurd hu (not_execute_of_boundary hb k o)
  | _ => rfl

theorem AtMicroOp.not_boundary {p : Config.Params} {s : State} {k o : Nat} {cw : ControlWord} {m : MicroOp}
    (hat : AtMicroOp p s k o cw m) : atBoundary s = false := by
  rw [atBoundary, hat.useq]
  rfl

theorem retireAfter_andThen_setUseq (x : Host.Outcome State Fault Refusal) (u : USeq) :
    retireAfter (andThen x fun t => .next (t.setUseq u)) = retireAfter x := by
  cases x <;> rfl

/-- The ticks from a micro-operation to the end of its entry do what the micro-operations left do, by induction on
the fuel. -/
theorem ticksToBoundary_execute {p : Config.Params} {fuel : Nat} {s : State} {k o : Nat} {cw : ControlWord}
    {m : MicroOp} {ops : List MicroOp} (ho : s.outcome = .none) (hat : AtMicroOp p s k o cw m)
    (hops : restOfEntry (rom p (opcodeBits s.ir)) s.useq = ops) (hfuel : ops.length ≤ fuel) :
    ticksToBoundary p fuel s = retireAfter (applyOps p ops (s.setStarted true)) := by
  induction fuel generalizing s k o cw m ops with
  | zero =>
    obtain ⟨rest, hrest, -⟩ := hat.restOfEntry_eq
    simp [← hops, hrest] at hfuel
  | succ fuel ih =>
    obtain ⟨rest, hrest, hnext⟩ := hat.restOfEntry_eq
    obtain rfl : m :: rest = ops := hrest.symm.trans hops
    rw [ticksToBoundary, applyOps, retireAfter, andThen_assoc]
    refine hat.tick_andThen ho fun u hs hir hou => ?_
    have hleft := hnext u.halted
    rcases hat.next_cases hir with hend | ⟨k', o', cw', m', hat'⟩
    · have hb := atBoundary_endOfEntry u
      rw [hend] at hleft
      obtain rfl : [] = rest := (restOfEntry_of_boundary hb).symm.trans hleft
      rw [hend, if_pos hb]
      rfl
    · generalize nextUseq (rom p (opcodeBits s.ir)) cw k o u.halted = q at *
      have hleft' : restOfEntry (rom p (opcodeBits u.ir)) q = rest := hir ▸ hleft
      have hgo := ih (s := u.setUseq q) hou hat' hleft' (Nat.le_of_succ_le_succ hfuel)
      rw [if_neg (by simp [hat'.not_boundary]), hgo, setStarted_of_started (s := u.setUseq q) hs, applyOps_setUseq,
        retireAfter_andThen_setUseq]
      rfl

/-- What IR's entry makes of a state: nothing where it is empty, its micro-operations and the end of the instruction
where it is not (rules R144, R163 to R165). -/
def runEntry (p : Config.Params) (s : State) : Host.Outcome State Fault Refusal :=
  if (rom p (opcodeBits s.ir)).isEmpty then noOperation s
  else retireAfter (applyOps p (rom p (opcodeBits s.ir)).flatten s)

theorem microOpCount_le (p : Config.Params) (op : Nibble) : (rom p op).flatten.length ≤ 9 := by
  have hall : ∀ (ext : Bool) (op : Nibble), (rom { Config.machine with extCondJump := ext } op).flatten.length ≤ 9 := by
    decide
  exact hall p.extCondJump op

/-- EXECUTE(0, 0) of an entry that is not empty has a micro-operation. -/
theorem atMicroOp_first {p : Config.Params} {s : State} (hu : s.useq = .execute 0 0)
    (hne : rom p (opcodeBits s.ir) ≠ []) : ∃ cw m, AtMicroOp p s 0 0 cw m := by
  have hlen := List.length_pos_iff.2 hne
  have hword := romWord_ne_nil _ (mem_romWords (List.getElem_mem hlen))
  exact ⟨_, _, hu, List.getElem?_eq_getElem hlen, List.getElem?_eq_getElem (List.length_pos_iff.2 hword)⟩

/-- The ticks from DECODE to the next boundary run IR's entry, but for the refusal of a reserved opcode. -/
theorem ticksToBoundary_decode {p : Config.Params} {s : State} (fuel : Nat) (ho : s.outcome = .none)
    (hu : s.useq = .decode) :
    ticksToBoundary p (fuel + 10) s =
      if p.reservedPolicy = .refuse ∧ reservedOpcode p (opcodeBits s.ir) = true then
        .refused (.reservedOpcode (opcodeBits s.ir))
      else runEntry p (s.setStarted true) := by
  split
  · next h => exact ticksToBoundary_refused _ (tick_decode_refused ho hu h)
  · next h =>
    have htick := tick_decode_next ho hu h
    rw [runEntry, State.setStarted_ir]
    split
    · next hempty =>
      rw [if_pos hempty] at htick
      exact ticksToBoundary_done _ htick rfl
    · next hne =>
      rw [if_neg hne] at htick
      obtain ⟨cw, m, hat⟩ := atMicroOp_first (p := p) (s := (s.setStarted true).setUseq (.execute 0 0)) rfl
        (mt List.isEmpty_iff.2 hne)
      have hlen := microOpCount_le p (opcodeBits s.ir)
      have hrun := ticksToBoundary_execute (s := (s.setStarted true).setUseq (.execute 0 0)) ho hat rfl
        (Nat.le_trans hlen (Nat.le_add_left 9 fuel))
      rw [ticksToBoundary_more _ htick rfl, hrun]
      exact (congrArg retireAfter (applyOps_setUseq p _ (s.setStarted true) _)).trans (retireAfter_andThen_setUseq _ _)

/-- The whole instruction step from FETCH1: the fetch, and then IR's entry (rule R167). -/
theorem stepInstr_fetch1 {p : Config.Params} {s : State} (ho : s.outcome = .none) (hu : s.useq = .fetch1) :
    stepInstr p s =
      if p.reservedPolicy = .refuse ∧ reservedOpcode p (opcodeBits (afterFetch s).ir) = true then
        .refused (.reservedOpcode (opcodeBits (afterFetch s).ir))
      else runEntry p (afterFetch s) := by
  rw [stepInstr, maxTicks, ticksToBoundary_fetch 10 ho hu]
  exact ticksToBoundary_decode 0 ho rfl

/-- The meaning of the instruction in IR is what its entry does, under the machine's parameters: the same operations in
the same order. -/
theorem exec_eq_runEntry (s : State) : exec (decode s.ir) s = runEntry Config.machine s := by
  have hop : opcodeBits s.ir = (decode s.ir).opcode := (opcode_decode s.ir).symm
  have hn : operandBits s.ir = (decode s.ir).operand := (operand_decode s.ir).symm
  rw [runEntry, hop]
  cases hi : decode s.ir with
  | _ n =>
    obtain rfl : operandBits s.ir = n := by rw [hn, hi]; rfl
    rfl

end Sys2Proof.Machine

end

section
/-! The refinement, the ticks of each instruction, and the variants of the parameters (rules R10, R148, R167, R225,
R230, R231). -/

namespace Sys2Proof.Machine

/-! The step as ticks. -/

/-- The machine's parameters refuse nothing, so the ticks from DECODE on are the meaning of the byte in IR. -/
theorem ticksToBoundary_decode_machine {s : State} (fuel : Nat) (ho : s.outcome = .none) (hu : s.useq = .decode) :
    ticksToBoundary Config.machine (fuel + 10) s = exec (decode s.ir) (s.setStarted true) := by
  rw [ticksToBoundary_decode fuel ho hu]
  exact (exec_eq_runEntry (s.setStarted true)).symm

/-- The microcoded engine and the step, written per instruction, answer alike from every sequencer state. -/
theorem stepInstr_eq_step (s : State) : stepInstr Config.machine s = step s := by
  cases ho : s.outcome with
  | fault r =>
    rw [stepInstr, maxTicks, ticksToBoundary_fault _ (tick_of_fault ho), step, unlessStopped, ho]
  | refused r =>
    rw [stepInstr, maxTicks, ticksToBoundary_refused _ (tick_of_refused ho), step, unlessStopped, ho]
  | none =>
    cases hu : s.useq with
    | fetch1 =>
      rw [stepInstr, maxTicks, ticksToBoundary_fetch 10 ho hu, step_fetch1 ho hu]
      exact ticksToBoundary_decode_machine 0 ho rfl
    | fetch2 =>
      rw [stepInstr, maxTicks, ticksToBoundary_more 11 (tick_fetch2 ho hu) rfl, step_fetch2 ho hu]
      exact ticksToBoundary_decode_machine 1 ho rfl
    | decode =>
      rw [stepInstr, maxTicks, step_decode ho hu]
      exact ticksToBoundary_decode_machine 2 ho hu
    | execute k o => rw [step_execute ho hu]
    | halted =>
      rw [step_halted ho hu]
      exact ticksToBoundary_done _ (tick_halted ho hu) (by simp [atBoundary, hu])

/-! The number of ticks to the next boundary. -/

/-- `n` ticks from `s` reach an instruction boundary, and fewer (but for none at all) reach a state that is at none. -/
def BoundaryIn (p : Config.Params) (n : Nat) (s : State) : Prop :=
  ∀ j, 0 < j → j ≤ n → ∃ t, ticks p j s = .next t ∧ atBoundary t = decide (j = n)

theorem BoundaryIn.one {p : Config.Params} {s t : State} (h : tick p s = .next t) (hb : atBoundary t = true) :
    BoundaryIn p 1 s := by
  intro j hpos hle
  obtain rfl : j = 1 := by omega
  exact ⟨t, by rw [ticks, h, andThen_next, ticks], hb⟩

theorem BoundaryIn.succ {p : Config.Params} {s t : State} {n : Nat} (h : tick p s = .next t)
    (hb : atBoundary t = false) (hn : 0 < n) (ht : BoundaryIn p n t) : BoundaryIn p (n + 1) s := by
  intro j hpos hle
  obtain ⟨i, rfl⟩ : ∃ i, j = i + 1 := ⟨j - 1, by omega⟩
  rw [ticks, h, andThen_next]
  cases i with
  | zero => exact ⟨t, rfl, by rw [hb, decide_eq_false (by omega)]⟩
  | succ i =>
    obtain ⟨u, hu, hbu⟩ := ht (i + 1) (by omega) (by omega)
    exact ⟨u, hu, by rw [hbu]; simp⟩

/-- From a micro-operation the boundary is as many ticks away as there are micro-operations left. -/
theorem boundaryIn_execute {s : State} {k o : Nat} {cw : ControlWord} {m : MicroOp} {ops : List MicroOp}
    (hat : AtMicroOp Config.machine s k o cw m) (ho : s.outcome = .none)
    (hops : restOfEntry (rom Config.machine (opcodeBits s.ir)) s.useq = ops) :
    BoundaryIn Config.machine ops.length s := by
  induction ops generalizing s k o cw m with
  | nil =>
    obtain ⟨rest, hrest, -⟩ := hat.restOfEntry_eq
    exact absurd (hrest.symm.trans hops) (List.cons_ne_nil m rest)
  | cons m' ops ih =>
    obtain ⟨rest, hrest, hnext⟩ := hat.restOfEntry_eq
    obtain ⟨rfl, rfl⟩ := List.cons.inj (hrest.symm.trans hops)
    have hreadable : aUnwritten Config.machine s = false := rfl
    obtain ⟨u, htick, hir, hou⟩ := hat.tick_next rfl ho (by simp [hreadable])
    have hleft := hnext u.halted
    rcases hat.next_cases hir with hend | ⟨k', o', cw', m', hat'⟩
    · rw [hend] at htick hleft
      have hb := atBoundary_endOfEntry u
      obtain rfl : [] = rest := (restOfEntry_of_boundary hb).symm.trans hleft
      exact .one htick hb
    · generalize nextUseq (rom Config.machine (opcodeBits s.ir)) cw k o u.halted = q at *
      have hleft' : restOfEntry (rom Config.machine (opcodeBits u.ir)) q = rest := hir ▸ hleft
      obtain ⟨rest', hrest', -⟩ := hat'.restOfEntry_eq
      have hpos : 0 < rest.length := by
        rw [hleft'.symm.trans hrest']
        exact Nat.succ_pos _
      exact .succ htick hat'.not_boundary hpos (ih hat' hou hleft')

theorem microOpCount_eq (e : RomEntry) : microOpCount e = e.flatten.length := List.length_flatten.symm

theorem boundaryIn_decode {s : State} (ho : s.outcome = .none) (hu : s.useq = .decode) :
    BoundaryIn Config.machine (1 + microOpCount (rom Config.machine (opcodeBits s.ir))) s := by
  have htick := tick_decode_next (p := Config.machine) ho hu (by simp [Config.machine])
  by_cases hempty : rom Config.machine (opcodeBits s.ir) = []
  · rw [hempty] at htick ⊢
    exact .one htick rfl
  · rw [if_neg (mt List.isEmpty_iff.1 hempty)] at htick
    obtain ⟨cw, m, hat⟩ := atMicroOp_first (p := Config.machine) (s := (s.setStarted true).setUseq (.execute 0 0)) rfl
      hempty
    obtain ⟨rest, hrest, -⟩ := hat.restOfEntry_eq
    have hgo := boundaryIn_execute hat ho hrest
    have hcount : microOpCount (rom Config.machine (opcodeBits s.ir)) = (m :: rest).length := by
      rw [microOpCount_eq]
      exact congrArg List.length hrest
    rw [hcount, Nat.add_comm]
    exact .succ htick rfl (Nat.succ_pos _) hgo

/-- From FETCH1 the next boundary is as many ticks away as rule R167 counts for the byte at PC. -/
theorem boundaryIn_fetch1 {s : State} (ho : s.outcome = .none) (hu : s.useq = .fetch1) :
    BoundaryIn Config.machine (instrTicks Config.machine (opcodeBits (Memory.read s.mem (s.pc.toNat % 16)))) s := by
  have hdecode := boundaryIn_decode (s := afterFetch s) ho rfl
  rw [← afterFetch2_afterFetch1] at hdecode
  have hfetch2 := hdecode.succ (tick_fetch2 (s := afterFetch1 s) ho rfl) rfl (by omega)
  have hfetch1 := hfetch2.succ (tick_fetch1 ho hu) rfl (by omega)
  rw [afterFetch2_afterFetch1, afterFetch_eq_fetchedByte] at hfetch1
  rw [instrTicks, show ∀ c, 3 + c = 1 + c + 1 + 1 by omega]
  exact hfetch1

/-! Two choices of the parameters. -/

/-- Micro-operations answer alike under two choices of the parameters that agree on whether A is readable, where A
is read at all. -/
theorem applyOps_congr {p q : Config.Params} {ops : List MicroOp} {s : State}
    (h : (∃ m ∈ ops, m.ReadsA) → aUnwritten p s = aUnwritten q s) : applyOps p ops s = applyOps q ops s := by
  induction ops generalizing s with
  | nil => rfl
  | cons m ops ih =>
    have hhead : applyMicroOp p m s = applyMicroOp q m s := by
      rw [applyMicroOp_eq, applyMicroOp_eq]
      by_cases hm : m.ReadsA
      · rw [h ⟨m, List.mem_cons_self, hm⟩]
      · simp [hm]
    rw [applyOps, applyOps, hhead]
    cases happly : applyMicroOp q m s with
    | next u =>
      obtain rfl := microOpEffect_of_next happly
      refine ih fun ⟨m', hm', hreads⟩ => ?_
      have hs := h ⟨m', List.mem_cons_of_mem m hm', hreads⟩
      by_cases hA : m = .busToA
      · simp [aUnwritten, hA, microOpEffect]
      · simpa only [aUnwritten, (microOpEffect_a s hA).2] using hs
    | fault r => rfl
    | refused r => rfl

theorem runEntry_congr {p q : Config.Params} {s : State}
    (hrom : rom p (opcodeBits s.ir) = rom q (opcodeBits s.ir))
    (hA : (∃ m ∈ (rom q (opcodeBits s.ir)).flatten, m.ReadsA) → aUnwritten p s = aUnwritten q s) :
    runEntry p s = runEntry q s := by
  rw [runEntry, runEntry, hrom, applyOps_congr hA]

/-- The step runs IR's entry of the machine's ROM from the state the fetch leaves. -/
theorem step_eq_runEntry {s : State} (ho : s.outcome = .none) (hu : s.useq = .fetch1) :
    step s = runEntry Config.machine (afterFetch s) := by
  rw [step_fetch1 ho hu]
  exact exec_eq_runEntry (afterFetch s)

/-- ADD, SUB and STA are the instructions that read A. -/
theorem rom_readsA_iff (op : Nibble) :
    (∃ m ∈ (rom Config.machine op).flatten, m.ReadsA) ↔ op = 2 ∨ op = 3 ∨ op = 4 := by
  revert op
  decide

theorem runEntry_documented_unwritten {d : Config.ResetDraw} {s : State} (hA : s.aWritten = false)
    (hop : opcodeBits s.ir = 2 ∨ opcodeBits s.ir = 3 ∨ opcodeBits s.ir = 4) :
    runEntry (Config.documented d) s = .fault .readUnwrittenA := by
  rw [runEntry]
  rcases hop with hop | hop | hop <;> rw [hop] <;>
    simp [rom, applyOps, applyMicroOp, readingA, aUnwritten, Config.documented, hA, retireAfter]

theorem jumpIf_none {flag : FlagPair → Bool} {s : State} (hfs : s.fs = none) :
    jumpIf flag s = .fault .readUnwrittenFlags := by
  rw [jumpIf_eq, if_pos hfs]

theorem jumpIf_some {flag : FlagPair → Bool} {s : State} {f : FlagPair} (hfs : s.fs = some f) :
    jumpIf flag s = .next (s.setPc (if flag f then pcOf s.bus else s.pc)) := by
  rw [jumpIf_eq, if_neg (by simp [hfs]), setPcIf, hfs]
  rfl

/-- The extension's jump from the fetch of its byte: it faults while the flag store is unwritten; PC takes the operand
where the flag is true, and the bus keeps it (rules R230, R231). -/
theorem conditionalJump_result (flag : FlagPair → Bool) (n : Nibble) (b : Byte) {s : State} (hu : s.useq = .fetch1)
    (hh : s.halted = false) :
    retireAfter (jumpIf flag (operandToBus n (fetchedByte b s))) =
      match s.fs with
      | none => .fault .readUnwrittenFlags
      | some f => .next { s with
          mar := s.pc, ir := b, bus := zext8 n, started := true,
          pc := if flag f then zext8 n else BitVec.ofNat 8 ((s.pc.toNat + 1) % 16) } := by
  split
  · next hfs =>
    rw [jumpIf_none (s := operandToBus n (fetchedByte b s)) hfs]
    rfl
  · next f hfs =>
    have hend : (if s.halted then USeq.halted else USeq.fetch1) = s.useq := by rw [hh, hu]; rfl
    rw [jumpIf_some (s := operandToBus n (fetchedByte b s)) hfs, operandToBus_eq, State.setBus_bus, pcOf_zext8, ← hend]
    rfl

theorem andThen_next_right (x : Host.Outcome State Fault Refusal) : (andThen x fun t => .next t) = x := by
  cases x <;> rfl

/-- The machine with the extension on (rule R8). -/
def withExtension : Config.Params := { Config.machine with extCondJump := true }

/-- The extension's entries 0x7 and 0x8 are the meanings of JC and JZ (rules R148, R230, R231). -/
theorem runEntry_jc {s : State} {n : Nibble} (hir : s.ir = instrByte 7 n) :
    runEntry withExtension s = execJc n s := by
  have hop : opcodeBits s.ir = 7 := by rw [hir, opcodeBits_instrByte]
  obtain rfl : operandBits s.ir = n := by rw [hir, operandBits_instrByte]
  rw [runEntry, hop, execJc, ← andThen_next_right (jumpIf _ _)]
  rfl

theorem runEntry_jz {s : State} {n : Nibble} (hir : s.ir = instrByte 8 n) :
    runEntry withExtension s = execJz n s := by
  have hop : opcodeBits s.ir = 8 := by rw [hir, opcodeBits_instrByte]
  obtain rfl : operandBits s.ir = n := by rw [hir, operandBits_instrByte]
  rw [runEntry, hop, execJz, ← andThen_next_right (jumpIf _ _)]
  rfl

theorem stepInstr_extension {s : State} {b : Byte} (ho : s.outcome = .none) (hu : s.useq = .fetch1)
    (hb : Memory.read s.mem (s.pc.toNat % 16) = b) :
    stepInstr withExtension s = runEntry withExtension (fetchedByte b s) := by
  rw [stepInstr_fetch1 ho hu, if_neg (by simp [withExtension, Config.machine]), afterFetch_eq_fetchedByte, hb]

/-- The extension leaves every other entry as it is (rule R148). -/
theorem rom_extension_eq (op : Nibble) (hjc : op ≠ 7) (hjz : op ≠ 8) :
    rom withExtension op = rom Config.machine op := by
  revert op
  decide

end Sys2Proof.Machine

open Sys2Proof Sys2Proof.Machine

/-- Settles O28: the ticks of the entry are the operations of the meaning (`ticksToBoundary_execute`,
`exec_eq_runEntry`). -/
theorem tickEngineEqualsStep : Obligations.TickEngineEqualsStep := stepInstr_eq_step

/-- Settles O29: both run the same entry, and the parameters differ in whether an unwritten A is readable, which
matters where the entry reads A. -/
theorem documentedDefaultDiffersOnlyOnUnwrittenA : Obligations.DocumentedDefaultDiffersOnlyOnUnwrittenA := by
  intro d s ho hu
  have hinstr : stepInstr (Config.documented d) s = runEntry (Config.documented d) (afterFetch s) :=
    (stepInstr_fetch1 ho hu).trans (if_neg (by simp [Config.documented]))
  refine hinstr.trans ?_
  rw [step_eq_runEntry ho hu, afterFetch_eq_fetchedByte]
  split
  · next h => exact runEntry_documented_unwritten h.1 h.2
  · next h =>
    refine runEntry_congr rfl fun hreads => ?_
    have hwritten : s.aWritten = true :=
      eq_true_of_ne_false fun hA => h ⟨hA, (rom_readsA_iff _).1 hreads⟩
    simp [aUnwritten, fetchedByte, hwritten]

/-- Settles O30: DECODE refuses the reserved opcodes, and the policy changes nothing else. -/
theorem refusePolicyRefusesReservedOpcodes : Obligations.RefusePolicyRefusesReservedOpcodes := by
  intro s ho hu
  have hreserved := reservedOpcode_iff { Config.machine with reservedPolicy := .refuse }
    (opcodeBits (Memory.read s.mem (s.pc.toNat % 16)))
  rw [stepInstr_fetch1 ho hu, step_eq_runEntry ho hu, afterFetch_eq_fetchedByte]
  exact ite_congr (propext ((and_iff_right rfl).trans hreserved)) (fun _ => rfl)
    fun _ => runEntry_congr rfl fun _ => rfl

/-- Settles O33: the extension's entries at 0x7 and 0x8, and `rom_extension_eq` at every other opcode. -/
theorem extensionReplacesTwoEntriesOnly : Obligations.ExtensionReplacesTwoEntriesOnly := by
  intro s ho hu
  refine (stepInstr_extension ho hu rfl).trans ?_
  rw [step_eq_runEntry ho hu, afterFetch_eq_fetchedByte]
  split
  · next hjc => exact runEntry_jc (eq_instrByte_of_opcodeBits hjc)
  · next hjc =>
    split
    · next hjz => exact runEntry_jz (eq_instrByte_of_opcodeBits hjz)
    · next hjz => exact runEntry_congr (rom_extension_eq _ hjc hjz) fun _ => rfl

/-- Settles O31: the step at the byte 0x7n is JC's meaning. -/
theorem extensionJumpsIfCarry : Obligations.ExtensionJumpsIfCarry :=
  fun s n ho hu hh hb =>
    calc stepInstr withExtension s
      _ = runEntry withExtension (fetchedByte _ s) := stepInstr_extension ho hu hb
      _ = execJc n (fetchedByte _ s) := runEntry_jc rfl
      _ = _ := conditionalJump_result FlagPair.carry n _ hu hh

/-- Settles O32: the step at the byte 0x8n is JZ's meaning. -/
theorem extensionJumpsIfZero : Obligations.ExtensionJumpsIfZero :=
  fun s n ho hu hh hb =>
    calc stepInstr withExtension s
      _ = runEntry withExtension (fetchedByte _ s) := stepInstr_extension ho hu hb
      _ = execJz n (fetchedByte _ s) := runEntry_jz rfl
      _ = _ := conditionalJump_result FlagPair.zero n _ hu hh

/-- Settles O22: the counts are the lengths of the entries, and `boundaryIn_fetch1` counts the ticks. -/
theorem ticksPerInstruction : Obligations.TicksPerInstruction := by
  refine ⟨by decide, fun s ho hu => ?_⟩
  have hpos : ∀ op, 0 < instrTicks Config.machine op := fun op => by rw [instrTicks]; omega
  have hcount := boundaryIn_fetch1 ho hu
  refine ⟨?reaches, fun k hk hlt => ?notBefore⟩
  case reaches =>
    obtain ⟨t, ht, hb⟩ := hcount _ (hpos _) (Nat.le_refl _)
    exact ⟨t, ht, by rw [hb, decide_eq_true rfl]⟩
  case notBefore =>
    obtain ⟨t, ht, hb⟩ := hcount k hk (Nat.le_of_lt hlt)
    exact ⟨t, ht, by rw [hb, decide_eq_false (Nat.ne_of_lt hlt)]⟩

end

section
/-! The invariant: reset, the load and every tick keep it, and so does every step (rule R33). -/

namespace Sys2Proof.Machine

/-! The ALU mode and the bus inside a word. -/

/-- The mode that a word has made, one micro-operation on. -/
theorem subtractAfter_succ {cw : ControlWord} {o : Nat} {m : MicroOp} (hm : cw[o]? = some m) :
    ControlWord.subtractAfter cw (o + 1) = modeAfter (ControlWord.subtractAfter cw o) m := by
  rw [ControlWord.subtractAfter, List.take_add_one, hm, List.foldl_append]
  rfl

theorem subtractAfter_length {cw : ControlWord} (hcw : cw ∈ romWords) :
    ControlWord.subtractAfter cw cw.length = false := by
  rw [ControlWord.subtractAfter, List.take_length]
  exact romWord_restores_addMode cw hcw

/-- `BusToMar` comes after `IrDataToBus`, which puts a cell number on the bus (rules R141, R180). -/
theorem irDataToBus_before_busToMar {cw : ControlWord} (hcw : cw ∈ romWords) :
    cw[0]? ≠ some MicroOp.busToMar ∧ ∀ o : Nat, cw[o + 1]? = some .busToMar → cw[o]? = some .irDataToBus := by
  have hall : ∀ cw ∈ romWords, cw[0]? ≠ some MicroOp.busToMar ∧
      ∀ o < cw.length, cw[o + 1]? = some .busToMar → cw[o]? = some .irDataToBus := by decide
  refine ⟨(hall cw hcw).1, fun o ho => (hall cw hcw).2 o ?_ ho⟩
  exact Nat.lt_of_succ_lt (List.getElem?_eq_some_iff.1 ho).1

/-! The fields that a micro-operation writes. -/

theorem microOpEffect_memWf (m : MicroOp) {s : State} (h : Memory.wf s.mem = true) :
    Memory.wf (microOpEffect m s).mem = true := by
  by_cases hm : m = .busToMem
  · subst hm
    exact Memory.wf_write (cellOf_lt s.mar) h
  · rw [microOpEffect_mem s hm, h]

/-- `PC.advance` and `PC.set` are masked, so PC stays below 16 (rules R24, R106). -/
theorem microOpEffect_pc_lt (m : MicroOp) {s : State} (h : s.pc.toNat < Config.memorySize) :
    (microOpEffect m s).pc.toNat < Config.memorySize := by
  have hjump : ∀ flag, (setPcIf flag s).pc.toNat < Config.memorySize := by
    intro flag
    rw [setPcIf, State.setPc_pc]
    split
    · exact pcOf_lt s.bus
    · exact h
  cases m with
  | pcAdvance =>
    simp only [microOpEffect, pcAdvance_eq, State.setPc_pc, BitVec.toNat_ofNat, Config.memorySize]
    omega
  | busToPc => exact pcOf_lt s.bus
  | busToPcIfCarry => exact hjump FlagPair.carry
  | busToPcIfZero => exact hjump FlagPair.zero
  | _ => exact h

theorem microOpEffect_mar_lt {m : MicroOp} {s : State} (h : s.mar.toNat < Config.memorySize)
    (hbus : m = .busToMar → s.bus.toNat < Config.memorySize) :
    (microOpEffect m s).mar.toNat < Config.memorySize := by
  by_cases hm : m = .busToMar
  · have hb := hbus hm
    subst hm
    exact hb
  · rw [microOpEffect_mar s hm]
    exact h

theorem microOpEffect_fsIsLast (m : MicroOp) {s : State} (h : s.fs = s.fsTrace.getLast?) :
    (microOpEffect m s).fs = (microOpEffect m s).fsTrace.getLast? := by
  by_cases hm : m = .storeFlags
  · subst hm
    exact List.getLast?_concat.symm
  · rw [(microOpEffect_fs s hm).1, (microOpEffect_fs s hm).2, h]

end Sys2Proof.Machine

namespace Sys2Proof.Safety

open Sys2Proof.Machine

/-! Where the sequencer stands. -/

theorem phaseOk_execute_iff {p : Config.Params} {s : State} {k o : Nat} (hu : s.useq = .execute k o) :
    PhaseOk p s ↔ ∃ cw m, AtMicroOp p s k o cw m ∧ s.aluSub = ControlWord.subtractAfter cw o ∧
      (m = .busToMar → s.bus.toNat < Config.memorySize) := by
  rw [PhaseOk, hu]
  exact ⟨fun ⟨cw, m, hw, hm, h⟩ => ⟨cw, m, ⟨hu, hw, hm⟩, h⟩, fun ⟨cw, m, hat, h⟩ => ⟨cw, m, hat.word, hat.op, h⟩⟩

theorem phaseOk_iff_of_not_execute {p : Config.Params} {s : State} (hu : ∀ k o, s.useq ≠ .execute k o) :
    PhaseOk p s ↔ s.aluSub = false := by
  rw [PhaseOk]
  split
  · next k o h => exact absurd h (hu k o)
  · exact Iff.rfl

/-- At an instruction boundary of the invariant the ALU is in ADD mode (rule R33 (c)). -/
theorem aluSub_of_boundary {p : Config.Params} {s : State} (h : PhaseOk p s) (hb : atBoundary s = true) :
    s.aluSub = false :=
  (phaseOk_iff_of_not_execute (not_execute_of_boundary hb)).1 h

/-- The first micro-operation of an entry, or of its next word, meets what the invariant asks of EXECUTE. -/
theorem phaseOk_of_word_start {p : Config.Params} {s : State} {k : Nat} {cw : ControlWord} {m : MicroOp}
    (hat : AtMicroOp p s k 0 cw m) (hmode : s.aluSub = false) : PhaseOk p s := by
  refine (phaseOk_execute_iff hat.useq).2 ⟨cw, m, hat, hmode, fun hm => ?_⟩
  exact absurd (hm ▸ hat.op) (irDataToBus_before_busToMar hat.mem_romWords).1

section AtMicroOp

variable {p : Config.Params} {s : State} {k o : Nat} {cw : ControlWord} {m : MicroOp} (hat : AtMicroOp p s k o cw m)

include hat

/-- The mode and the bus after a micro-operation are what the invariant asks of the next sequencer state. -/
theorem phaseOk_after (hmode : s.aluSub = ControlWord.subtractAfter cw o) {u : State}
    (hu : microOpEffect m (s.setStarted true) = u) :
    PhaseOk p (u.setUseq (nextUseq (rom p (opcodeBits s.ir)) cw k o u.halted)) := by
  have hir : u.ir = s.ir := hu ▸ microOpEffect_ir _ hat.ne_busToIr
  have hafter : u.aluSub = ControlWord.subtractAfter cw (o + 1) := by
    rw [← hu, microOpEffect_aluSub, subtractAfter_succ hat.op, State.setStarted_aluSub, hmode]
  have hend : ¬o + 1 < cw.length → u.aluSub = false := by
    intro hlast
    have ho := (List.getElem?_eq_some_iff.1 hat.op).1
    rw [hafter, show o + 1 = cw.length by omega, subtractAfter_length hat.mem_romWords]
  rw [nextUseq]
  split
  · next hmore =>
    have hword : (rom p (opcodeBits u.ir))[k]? = some cw := hir ▸ hat.word
    have hat' : AtMicroOp p (u.setUseq (.execute k (o + 1))) k (o + 1) cw cw[o + 1] :=
      ⟨rfl, hword, List.getElem?_eq_getElem hmore⟩
    refine (phaseOk_execute_iff rfl).2 ⟨cw, _, hat', hafter, fun hm' => ?_⟩
    obtain rfl : m = .irDataToBus := by
      have hbefore := (irDataToBus_before_busToMar hat.mem_romWords).2 o (hm' ▸ hat'.op)
      exact Option.some.inj (hat.op.symm.trans hbefore)
    rw [← hu]
    exact zext8_lt _
  · next hlast =>
    split
    · next hmore =>
      have hne := romWord_ne_nil _ (mem_romWords (List.getElem_mem hmore))
      have hword : (rom p (opcodeBits u.ir))[k + 1]? = some (rom p (opcodeBits s.ir))[k + 1] := by
        rw [hir, List.getElem?_eq_getElem hmore]
      exact phaseOk_of_word_start ⟨rfl, hword, List.getElem?_eq_getElem (List.length_pos_iff.2 hne)⟩ (hend hlast)
    · refine (phaseOk_iff_of_not_execute fun k' o' h => ?_).2 (hend hlast)
      rw [State.setUseq_useq] at h
      split at h <;> exact nomatch h

/-- `Halt` is a whole entry, so that the engine is halted exactly where the sequencer is in HALTED (rule R165). -/
theorem halted_iff_after (hrunning : s.halted = false) {u : State}
    (hu : microOpEffect m (s.setStarted true) = u) :
    u.halted = true ↔ nextUseq (rom p (opcodeBits s.ir)) cw k o u.halted = .halted := by
  have hhalt : m = .halt → ¬o + 1 < cw.length ∧ ¬k + 1 < (rom p (opcodeBits s.ir)).length := by
    have hall : ∀ (ext : Bool) (op : Nibble), ∀ k < 3, ∀ o < 5,
        ∀ cw ∈ (rom { Config.machine with extCondJump := ext } op)[k]?, ∀ m ∈ cw[o]?, m = .halt →
          ¬o + 1 < cw.length ∧ ¬k + 1 < (rom { Config.machine with extCondJump := ext } op).length := by decide
    exact hall p.extCondJump (opcodeBits s.ir) k hat.lt.1 o hat.lt.2 cw hat.word m hat.op
  by_cases hm : m = .halt
  · obtain ⟨hlast, hend⟩ := hhalt hm
    rw [nextUseq, if_neg hlast, if_neg hend]
    cases u.halted <;> simp
  · have hu' : u.halted = false := by rw [← hu, microOpEffect_halted _ hm, State.setStarted_halted, hrunning]
    rw [hu', nextUseq]
    split
    · simp
    · split <;> simp

end AtMicroOp

/-! The invariant under each change of state. -/

section Inv

variable {p : Config.Params} {s : State} (h : Inv p s)

include h

theorem Inv.started_of_ne_fetch1 (hu : s.useq ≠ .fetch1) : s.started = true :=
  eq_true_of_ne_false fun hs => hu (h.startsAtFetch hs)

theorem Inv.not_halted (hu : s.useq ≠ .halted) : s.halted = false :=
  Bool.eq_false_iff.2 (mt h.haltedIff.1 hu)

theorem Inv.atMicroOp {k o : Nat} (hu : s.useq = .execute k o) :
    ∃ cw m, AtMicroOp p s k o cw m ∧ s.aluSub = ControlWord.subtractAfter cw o ∧
      (m = .busToMar → s.bus.toNat < Config.memorySize) :=
  (phaseOk_execute_iff hu).1 h.phase

theorem Inv.addMode (hu : ∀ k o, s.useq ≠ .execute k o) : s.aluSub = false :=
  (phaseOk_iff_of_not_execute hu).1 h.phase

theorem Inv.setOutcome (r : RunOutcome) : Inv p (s.setOutcome r) :=
  ⟨h.memWf, h.pcInRange, h.marInRange, h.startsAtFetch, h.haltedIff, h.phase, h.fsIsLast⟩

theorem Inv.setMem {m : Memory} (hm : Memory.wf m = true) : Inv p (s.setMem m) :=
  ⟨hm, h.pcInRange, h.marInRange, h.startsAtFetch, h.haltedIff, h.phase, h.fsIsLast⟩

theorem Inv.afterFetch1 (hu : s.useq = .fetch1) : Inv p (afterFetch1 s) where
  memWf := h.memWf
  pcInRange := h.pcInRange
  marInRange _ := h.pcInRange
  startsAtFetch hs := nomatch hs
  haltedIff := iff_of_false (by simp [Machine.afterFetch1, h.not_halted (by simp [hu])]) nofun
  phase := h.addMode (by simp [hu])
  fsIsLast := h.fsIsLast

theorem Inv.afterFetch2 (hu : s.useq = .fetch2) : Inv p (afterFetch2 s) where
  memWf := h.memWf
  pcInRange := microOpEffect_pc_lt .pcAdvance h.pcInRange
  marInRange _ := h.marInRange (h.started_of_ne_fetch1 (by simp [hu]))
  startsAtFetch hs := nomatch hs
  haltedIff := iff_of_false (by simp [Machine.afterFetch2, h.not_halted (by simp [hu])]) nofun
  phase := h.addMode (by simp [hu])
  fsIsLast := h.fsIsLast

theorem Inv.afterDecode (hu : s.useq = .decode) :
    Inv p ((s.setStarted true).setUseq (if (rom p (opcodeBits s.ir)).isEmpty then .fetch1 else .execute 0 0)) where
  memWf := h.memWf
  pcInRange := h.pcInRange
  marInRange _ := h.marInRange (h.started_of_ne_fetch1 (by simp [hu]))
  startsAtFetch hs := nomatch hs
  haltedIff := by
    refine iff_of_false (by simp [h.not_halted (by simp [hu])]) fun hq => ?_
    rw [State.setUseq_useq] at hq
    split at hq <;> exact nomatch hq
  phase := by
    have hmode : s.aluSub = false := h.addMode (by simp [hu])
    split
    · exact hmode
    · next hne =>
      obtain ⟨cw, m, hat⟩ := atMicroOp_first (p := p) (s := (s.setStarted true).setUseq (.execute 0 0)) rfl
        (mt List.isEmpty_iff.2 hne)
      exact phaseOk_of_word_start hat hmode
  fsIsLast := h.fsIsLast

theorem Inv.afterMicroOp {k o : Nat} {cw : ControlWord} {m : MicroOp} (hat : AtMicroOp p s k o cw m) :
    Inv p ((microOpEffect m (s.setStarted true)).setUseq
      (nextUseq (rom p (opcodeBits s.ir)) cw k o (microOpEffect m (s.setStarted true)).halted)) := by
  obtain ⟨cw', m', hat', hmode, hbus⟩ := h.atMicroOp hat.useq
  obtain rfl : cw' = cw := Option.some.inj (hat'.word.symm.trans hat.word)
  obtain rfl : m' = m := Option.some.inj (hat'.op.symm.trans hat.op)
  have hstarted : s.started = true := h.started_of_ne_fetch1 (by simp [hat.useq])
  refine
    { memWf := microOpEffect_memWf m' h.memWf
      pcInRange := microOpEffect_pc_lt m' h.pcInRange
      marInRange := fun _ => microOpEffect_mar_lt (h.marInRange hstarted) hbus
      startsAtFetch := fun hs => ?_
      haltedIff := ?_
      phase := phaseOk_after hat hmode rfl
      fsIsLast := microOpEffect_fsIsLast m' h.fsIsLast }
  · exact absurd ((microOpEffect_started m' (s.setStarted true)).symm.trans hs) (by simp)
  · exact halted_iff_after hat (h.not_halted (by simp [hat.useq])) (u := microOpEffect m' (s.setStarted true)) rfl

/-- Every tick keeps the invariant, whichever way it goes on. -/
theorem Inv.tick {t : State} (ht : tick p s = .next t) : Inv p t := by
  cases tickNext_of_tick ht with
  | fetch1 hu => exact h.afterFetch1 hu
  | fetch2 hu => exact h.afterFetch2 hu
  | decode hu => exact h.afterDecode hu
  | execute hat => exact h.afterMicroOp hat
  | halted hu => exact h

theorem Inv.load {t : State} {image : Vector Byte 16} (ht : load image s = .next t) : Inv p t := by
  cases hs : s.started with
  | true => exact nomatch (load_started image hs).symm.trans ht
  | false =>
    obtain rfl := Host.Outcome.next.inj ((load_unstarted image hs).symm.trans ht)
    exact h.setMem (wf_image image)

theorem Inv.noteStop (r : RunOutcome) : Inv p (noteStop r s) := by
  rw [Machine.noteStop]
  split
  · exact h.setOutcome r
  · exact h

/-- A transition that keeps the invariant where it goes on keeps it where its stop is recorded. -/
theorem Inv.recorded {x : Host.Outcome State Fault Refusal} (hx : ∀ t, x = .next t → Inv p t) :
    Inv p (recorded s x) := by
  cases x with
  | next t => exact hx t rfl
  | fault r => exact h.noteStop (.fault r)
  | refused r => exact h.noteStop (.refused r)

/-- A tick that stops is of an engine that has started: the first tick, of FETCH1, goes on. -/
theorem Inv.tickRecorded (ho : s.outcome = .none) : Inv p (tickRecorded p s) := by
  rw [Machine.tickRecorded]
  by_cases hu : s.useq = .fetch1
  · rw [tick_fetch1 ho hu]
    exact h.afterFetch1 hu
  · rw [setStarted_of_started (h.started_of_ne_fetch1 hu)]
    exact h.recorded fun t => h.tick

end Inv

theorem inv_resetWith (p : Config.Params) : Inv p (State.resetWith p) where
  memWf := rfl
  pcInRange := by simp [State.resetWith, Config.memorySize]
  marInRange hs := nomatch hs
  startsAtFetch _ := rfl
  haltedIff := iff_of_false nofun nofun
  phase := rfl
  fsIsLast := rfl

end Sys2Proof.Safety

open Sys2Proof Sys2Proof.Machine Sys2Proof.Safety

/-- Settles O52. -/
theorem resetAndLoadMeetInvariant : Obligations.ResetAndLoadMeetInvariant :=
  fun p => ⟨inv_resetWith p, fun _ _ _ h => h.load⟩

/-- Settles O53: one lemma for each way a tick goes on (`tickNext_of_tick`). -/
theorem tickKeepsInvariant : Obligations.TickKeepsInvariant :=
  fun _ _ _ h => h.tick

/-- Settles O59. -/
theorem recordedStopsKeepInvariant : Obligations.RecordedStopsKeepInvariant :=
  fun _ _ h => ⟨h.tickRecorded, fun _ => h.recorded fun _ => h.load⟩

end

section
/-! Steps from the invariant: each ends at a boundary within it, none stops under the machine's parameters, and under
the spec's own default a tick stops at the read of an unwritten A alone (rules R33, R59, R250; decision D10). -/

namespace Sys2Proof.Safety

open Sys2Proof.Machine

/-! A step ends at an instruction boundary. -/

theorem execEffect_atBoundary (i : Instr) (s : State) : atBoundary (execEffect i s) = true := by
  cases i with
  | lda n | add n | sub n | sta n | ldi n | jmp n | out n => exact atBoundary_endOfEntry s
  | _ => rfl

theorem exec_atBoundary {i : Instr} {s t : State} (h : exec i s = .next t) : atBoundary t = true := by
  obtain rfl := execEffect_of_next h
  exact execEffect_atBoundary i s

theorem retireAfter_atBoundary {x : Host.Outcome State Fault Refusal} {t : State} (h : retireAfter x = .next t) :
    atBoundary t = true := by
  obtain ⟨u, -, hu⟩ := andThen_eq_next.1 h
  obtain rfl := Host.Outcome.next.inj hu
  exact atBoundary_endOfEntry u

theorem flatten_drop_length_le (e : RomEntry) (k : Nat) : (e.drop k).flatten.length ≤ e.flatten.length := by
  have hsplit : (e.take k).flatten.length + (e.drop k).flatten.length = e.flatten.length := by
    rw [← List.length_append, ← List.flatten_append, List.take_append_drop]
  omega

theorem restOfEntry_length_le (p : Config.Params) (op : Nibble) (u : USeq) :
    (restOfEntry (rom p op) u).length ≤ maxTicks := by
  cases u with
  | execute k o =>
    calc (restOfEntry (rom p op) (.execute k o)).length
      _ ≤ ((rom p op).drop k).flatten.length := (List.drop_sublist o _).length_le
      _ ≤ (rom p op).flatten.length := flatten_drop_length_le (rom p op) k
      _ ≤ 9 := microOpCount_le p op
      _ ≤ maxTicks := by decide
  | _ => exact Nat.zero_le _

theorem step_atBoundary_of_not_execute {s t : State} (hu : ∀ k o, s.useq ≠ .execute k o) (h : step s = .next t) :
    atBoundary t = true := by
  obtain ⟨ho, -⟩ := unlessStopped_eq_next.1 h
  cases hu' : s.useq with
  | fetch1 => exact exec_atBoundary ((step_fetch1 ho hu').symm.trans h)
  | fetch2 => exact exec_atBoundary ((step_fetch2 ho hu').symm.trans h)
  | decode => exact exec_atBoundary ((step_decode ho hu').symm.trans h)
  | execute k o => exact absurd hu' (hu k o)
  | halted =>
    obtain rfl := Host.Outcome.next.inj ((step_halted ho hu').symm.trans h)
    simp [atBoundary, hu']

/-- From the middle of an instruction the step runs what is left of its entry. -/
theorem step_atBoundary {s t : State} (hinv : Inv Config.machine s) (h : step s = .next t) : atBoundary t = true := by
  by_cases hu : ∃ k o, s.useq = .execute k o
  · obtain ⟨ho, -⟩ := unlessStopped_eq_next.1 h
    obtain ⟨k, o, hu⟩ := hu
    obtain ⟨cw, m, hat, -⟩ := hinv.atMicroOp hu
    have hfuel := restOfEntry_length_le Config.machine (opcodeBits s.ir) s.useq
    rw [step_execute ho hu, stepInstr, ticksToBoundary_execute ho hat rfl hfuel] at h
    exact retireAfter_atBoundary h
  · exact step_atBoundary_of_not_execute (fun k o h => hu ⟨k, o, h⟩) h

/-! What every tick keeps, an instruction step keeps. -/

theorem ticksToBoundary_keeps {p : Config.Params} {P : State → Prop} (htick : ∀ s t, P s → tick p s = .next t → P t)
    (fuel : Nat) {s t : State} (hs : P s) (h : ticksToBoundary p fuel s = .next t) : P t := by
  induction fuel generalizing s with
  | zero =>
    obtain rfl := Host.Outcome.next.inj h
    exact hs
  | succ fuel ih =>
    obtain ⟨u, hu, hgo⟩ := andThen_eq_next.1 h
    have hPu := htick s u hs hu
    split at hgo
    · obtain rfl := Host.Outcome.next.inj hgo
      exact hPu
    · exact ih hPu hgo

theorem ticksToBoundary_goes_on {p : Config.Params} {P : State → Prop}
    (htick : ∀ s, P s → ∃ t, tick p s = .next t ∧ P t) (fuel : Nat) {s : State} (hs : P s) :
    ∃ t, ticksToBoundary p fuel s = .next t := by
  induction fuel generalizing s with
  | zero => exact ⟨s, rfl⟩
  | succ fuel ih =>
    obtain ⟨u, hu, hPu⟩ := htick s hs
    cases hb : atBoundary u with
    | true => exact ⟨u, ticksToBoundary_done fuel hu hb⟩
    | false =>
      rw [ticksToBoundary_more fuel hu hb]
      exact ih hPu

theorem tick_outcome {p : Config.Params} {s t : State} (h : tick p s = .next t) : t.outcome = .none := by
  obtain ⟨ho, -⟩ := unlessStopped_eq_next.1 h
  cases tickNext_of_tick h with
  | execute hat => exact (microOpEffect_outcome _ _).trans ho
  | _ => exact ho

theorem Inv.step {s t : State} (hinv : Inv Config.machine s) (h : step s = .next t) : Inv Config.machine t := by
  rw [← stepInstr_eq_step] at h
  exact ticksToBoundary_keeps (fun _ _ hs => hs.tick) maxTicks hinv h

theorem step_outcome {s t : State} (ho : s.outcome = .none) (h : step s = .next t) : t.outcome = .none := by
  rw [← stepInstr_eq_step] at h
  exact ticksToBoundary_keeps (P := fun s => s.outcome = .none) (fun _ _ _ => tick_outcome) maxTicks ho h

/-! Where a tick of the invariant stops. -/

/-- Outside EXECUTE no tick of the hardware as documented stops. -/
theorem tick_next_of_not_execute {p : Config.Params} {s : State} (hp : p.reservedPolicy = .nop) (ho : s.outcome = .none)
    (hu : ∀ k o, s.useq ≠ .execute k o) : ∃ t, tick p s = .next t := by
  cases hu' : s.useq with
  | fetch1 => exact ⟨_, tick_fetch1 ho hu'⟩
  | fetch2 => exact ⟨_, tick_fetch2 ho hu'⟩
  | decode => exact ⟨_, tick_decode_next ho hu' (by simp [hp])⟩
  | execute k o => exact absurd hu' (hu k o)
  | halted => exact ⟨s, tick_halted ho hu'⟩

/-- Under the machine's parameters, where A has a reset value, every tick of the invariant goes on. -/
theorem Inv.tick_next {s : State} (hinv : Inv Config.machine s) (ho : s.outcome = .none) :
    ∃ t, Machine.tick Config.machine s = .next t := by
  by_cases hu : ∃ k o, s.useq = .execute k o
  · obtain ⟨k, o, hu⟩ := hu
    obtain ⟨cw, m, hat, -⟩ := hinv.atMicroOp hu
    have hreadable : aUnwritten Config.machine s = false := rfl
    obtain ⟨u, htick, -⟩ := hat.tick_next rfl ho (by simp [hreadable])
    exact ⟨_, htick⟩
  · exact tick_next_of_not_execute (p := Config.machine) rfl ho fun k o h => hu ⟨k, o, h⟩

theorem Inv.step_next {s : State} (hinv : Inv Config.machine s) (ho : s.outcome = .none) :
    ∃ t, Machine.step s = .next t := by
  rw [← stepInstr_eq_step]
  refine ticksToBoundary_goes_on (P := fun s => Inv Config.machine s ∧ s.outcome = .none) ?_ maxTicks ⟨hinv, ho⟩
  intro s ⟨hs, ho⟩
  obtain ⟨t, ht⟩ := hs.tick_next ho
  exact ⟨t, ht, hs.tick ht, tick_outcome ht⟩

/-- Any number of steps goes on, within the invariant. -/
theorem Inv.steps_next (k : Nat) {s : State} (hinv : Inv Config.machine s) (ho : s.outcome = .none) :
    ∃ t, steps k s = .next t ∧ Inv Config.machine t ∧ t.outcome = .none := by
  induction k generalizing s with
  | zero => exact ⟨s, rfl, hinv, ho⟩
  | succ k ih =>
    obtain ⟨u, hu⟩ := hinv.step_next ho
    rw [steps, hu, andThen_next]
    exact ih (hinv.step hu) (step_outcome ho hu)

end Sys2Proof.Safety

open Sys2Proof Sys2Proof.Machine Sys2Proof.Safety

/-- Settles O54: the ticks of the step keep the invariant, and at a boundary it has ADD mode. -/
theorem stepKeepsInvariant : Obligations.StepKeepsInvariant := by
  intro s t hinv h
  have hb := step_atBoundary hinv h
  exact ⟨hinv.step h, hb, aluSub_of_boundary (hinv.step h).phase hb⟩

/-- Settles O55, by induction on the number of steps. -/
theorem machineNeverStops : Obligations.MachineNeverStops :=
  fun _ hinv ho k => hinv.steps_next k ho

/-- Settles O56: outside EXECUTE no tick stops; in EXECUTE the invariant gives the micro-operation, and the three
places are those that read A (`AtMicroOp.readsA_iff`). -/
theorem documentedDefaultStopsOnlyOnUnwrittenA : Obligations.DocumentedDefaultStopsOnlyOnUnwrittenA := by
  intro d s hinv ho
  by_cases hu : ∃ k o, s.useq = .execute k o
  · obtain ⟨k, o, hu⟩ := hu
    obtain ⟨cw, m, hat, -⟩ := hinv.atMicroOp hu
    have hunwritten : aUnwritten (Config.documented d) s = true ↔ s.aWritten = false :=
      aUnwritten_iff.trans (and_iff_right rfl)
    split
    · next hA => exact hat.tick_unwrittenA ho (hat.readsA_iff.2 hA.2) (hunwritten.2 hA.1)
    · next hA =>
      obtain ⟨u, htick, -⟩ := hat.tick_next rfl ho fun ⟨hm, hA'⟩ => hA ⟨hunwritten.1 hA', hat.readsA_iff.1 hm⟩
      exact ⟨_, htick⟩
  · have hu' : ∀ k o, s.useq ≠ .execute k o := fun k o h => hu ⟨k, o, h⟩
    rw [if_neg (by simp [hu'])]
    exact tick_next_of_not_execute rfl ho hu'

end

section
/-! The reset draws: what a run from an instruction boundary does depends on none of them (rules R38, R172). -/

namespace Sys2Proof.Safety

open Sys2Proof.Machine

/-- The fetch writes MAR, IR and BUS, and no instruction reads B or an ALU flag that it has not written, so that two
states that agree but for the draws have instructions that agree but for them. -/
theorem execEffect_sameButDraws (i : Instr) {s t : State} (h : SameButDraws s t) :
    SameButDraws (execEffect i (afterFetch s)) (execEffect i (afterFetch t)) := by
  rw [h]
  cases i <;> rfl

theorem step_sameOutcome {s t : State} (h : SameButDraws s t) (hb : atBoundary s = true) :
    SameOutcome (step s) (step t) := by
  have hout : t.outcome = s.outcome := by rw [h]
  have huseq : t.useq = s.useq := by rw [h]
  cases ho : s.outcome with
  | fault r => simp [step, unlessStopped, hout, ho, SameOutcome]
  | refused r => simp [step, unlessStopped, hout, ho, SameOutcome]
  | none =>
    cases hu : s.useq with
    | fetch1 =>
      have hbyte : Memory.read t.mem (cellOf t.pc) = Memory.read s.mem (cellOf s.pc) := by rw [h]
      rw [step_fetch1 ho hu, step_fetch1 (hout.trans ho) (huseq.trans hu), hbyte, exec_eq, exec_eq]
      exact execEffect_sameButDraws _ h
    | halted =>
      rw [step_halted ho hu, step_halted (hout.trans ho) (huseq.trans hu)]
      exact h
    | fetch2 | decode | execute k o => simp [atBoundary, hu] at hb

theorem steps_sameOutcome (k : Nat) {s t : State} (h : SameButDraws s t) (hb : atBoundary s = true) :
    SameOutcome (steps k s) (steps k t) := by
  induction k generalizing s t with
  | zero => exact h
  | succ k ih =>
    have hstep := step_sameOutcome h hb
    rw [steps, steps]
    cases hs : step s with
    | next u =>
      cases ht : step t with
      | next v =>
        rw [hs, ht] at hstep
        exact ih hstep (step_atBoundary_of_not_execute (not_execute_of_boundary hb) hs)
      | fault r | refused r => rw [hs, ht] at hstep; exact hstep.elim
    | fault r | refused r =>
      rw [hs] at hstep
      cases ht : step t with
      | next v => rw [ht] at hstep; exact hstep.elim
      | fault r' | refused r' => rw [ht] at hstep; exact hstep

end Sys2Proof.Safety

open Sys2Proof.Safety

/-- Settles O57, by induction on the number of steps. -/
theorem runDoesNotDependOnResetDraws : Obligations.RunDoesNotDependOnResetDraws :=
  fun _ _ h hb k => steps_sameOutcome k h hb

end
